-- ==== Sys2Proof/Word.lean ====
section
/-! DEFINITION. The widths of the engine (spec/00_scope.md R6, R7): an exchange and a pixel value are 8 bits,
a word and the preamble 16, a count and the index 32; and the two encoded forms of spec/30_encoding.md,
the 64-bit command descriptor `CMD64` (R70) and the 10-bit micro-operation word `UOP10` (R79). -/

namespace Sys2Proof

/-- One exchange, one pixel value (`BYTE_W = 8`, R6). -/
abbrev Byte := BitVec 8

/-- One command or data word, the preamble (`WORD_W = 16`, R6). -/
abbrev Word := BitVec 16

/-- An element count, an element index, a length (`CNT_W = 32`, R6). -/
abbrev Count := BitVec 32

/-- What a decoder can be given. The two formats never share a place, so nothing has to tell them apart: a
descriptor stands only on the `CMD` port (R34), a micro-operation word only inside the sequencer (R79). -/
inductive Code where
  | cmd64 (d : BitVec 64)
  | uop10 (w : BitVec 10)
deriving DecidableEq, Repr

end Sys2Proof
end

