-- ==== Sys2Proof/Syntax.lean ====
section
/-! DEFINITION. The instructions: one constructor per row of spec/opcode_table.json, the three commands a host
can issue (format `CMD64`) and the four micro-operations the sequencer performs (format `UOP10`). -/

namespace Sys2Proof

/-- Every row of spec/opcode_table.json. A field that the encoding fixes at zero (`RSV`, the preamble of WPP,
the byte of WAITRDY, CSLOW and CSHIGH) is no operand, so no constructor carries it. -/
inductive Instr where
  /-- WRW, write words (R140): the preamble and the number of words of `TXW`. -/
  | wrw (pre : Word) (cnt : Count)
  /-- RDW, read words (R141): the preamble and the number of words for `RXW`. -/
  | rdw (pre : Word) (cnt : Count)
  /-- WPP, write packed pixel bytes (R142): the number of pixel values of `TXP`. -/
  | wpp (cnt : Count)
  /-- WAITRDY, one poll of the ready line (R90). -/
  | waitrdy
  /-- CSLOW, assert chip-select (R111). -/
  | cslow
  /-- CSHIGH, de-assert chip-select (R112). -/
  | cshigh
  /-- XCHG, exchange one byte each way (R100): the byte to send. -/
  | xchg (out : Byte)
deriving DecidableEq, Repr

end Sys2Proof
end

