-- ==== Sys2Proof/WellFormed.lean ====
section
/-! DEFINITION. Which encoded words are well-formed, read from the opcode map of spec/30_encoding.md: a descriptor
that matches a row of R73 by `d & mask = match`, a micro-operation word that R79 lets the sequencer form.
The decoder is written from the FIELDS instead (R84); that the two agree is a statement about them.
Every term of `Instr` is well-formed, since a field the encoding fixes is no operand of a constructor. -/

namespace Sys2Proof

/-- One row of the opcode map of R73. -/
structure OpcodeRow where
  matchBits : BitVec 64
  maskBits  : BitVec 64
deriving DecidableEq, Repr

/-- The three rows of R73, in its order: WRW, RDW, WPP. -/
def opcodeMap : List OpcodeRow :=
  [ { matchBits := 0x4000000000000000, maskBits := 0xFFFF000000000000 },
    { matchBits := 0x8000000000000000, maskBits := 0xFFFF000000000000 },
    { matchBits := 0xC000000000000000, maskBits := 0xFFFFFFFF00000000 } ]

/-- R73: a descriptor selects a row's command when `d & mask = match`. -/
def OpcodeRow.selects (r : OpcodeRow) (d : BitVec 64) : Bool := d &&& r.maskBits == r.matchBits

/-- R73: a descriptor that matches a row is well-formed. -/
def cmdWellFormed (d : BitVec 64) : Bool := opcodeMap.any (fun r => r.selects d)

/-- R79: code `11` carries any byte; the codes `00`, `01` and `10` carry only the byte zero. -/
def uopWellFormed (w : BitVec 10) : Bool := w.extractLsb 9 8 == 3#2 || w.extractLsb 7 0 == 0#8

/-- The check on either format. -/
def Code.wellFormed : Code → Bool
  | .cmd64 d => cmdWellFormed d
  | .uop10 w => uopWellFormed w

end Sys2Proof
end

