-- ==== Sys2Proof/Decode.lean ====
section
/-! DEFINITION. Decoding by fields (spec/30_encoding.md R70, R71, R74, R79, R84), total on every word and refusing by
name, and after it the encoder written from the same tables. -/

namespace Sys2Proof

/-- Why a word is no instruction. -/
inductive DecodeError where
  /-- `OP = 0b00` names no command (R71). -/
  | reservedOp
  /-- `RSV` must be zero (R70). -/
  | reservedField
  /-- the `PRE` field of a WPP descriptor must be zero (R70, R74). -/
  | wppPreamble
  /-- a micro-operation word of code `00`, `01` or `10` with a non-zero byte (R79). -/
  | microByte
deriving DecidableEq, Repr

/-- `OP`, bits [63:62] (R70). -/
def fieldOp (d : BitVec 64) : BitVec 2 := d.extractLsb 63 62
/-- `RSV`, bits [61:48] (R70). -/
def fieldRsv (d : BitVec 64) : BitVec 14 := d.extractLsb 61 48
/-- `PRE`, bits [47:32] (R70): taken as it stands (R72). -/
def fieldPre (d : BitVec 64) : Word := d.extractLsb 47 32
/-- `CNT`, bits [31:0] (R70): taken as it stands (R72). -/
def fieldCnt (d : BitVec 64) : Count := d.extractLsb 31 0

/-- R84: decoding a descriptor. -/
def decodeCmd64 (d : BitVec 64) : Except DecodeError Instr :=
  if fieldOp d = 0#2 then .error .reservedOp
  else if fieldRsv d ≠ 0#14 then .error .reservedField
  else if fieldOp d = 1#2 then .ok (.wrw (fieldPre d) (fieldCnt d))
  else if fieldOp d = 2#2 then .ok (.rdw (fieldPre d) (fieldCnt d))
  else if fieldPre d ≠ 0#16 then .error .wppPreamble
  else .ok (.wpp (fieldCnt d))

/-- The code of a micro-operation word, bits [9:8] (R79). -/
def uopCode (w : BitVec 10) : BitVec 2 := w.extractLsb 9 8
/-- The byte of a micro-operation word, bits [7:0] (R79). -/
def uopByte (w : BitVec 10) : Byte := w.extractLsb 7 0

/-- R79: decoding a micro-operation word. -/
def decodeUop10 (w : BitVec 10) : Except DecodeError Instr :=
  if uopCode w = 3#2 then .ok (.xchg (uopByte w))
  else if uopByte w ≠ 0#8 then .error .microByte
  else if uopCode w = 0#2 then .ok .waitrdy
  else if uopCode w = 1#2 then .ok .cslow
  else .ok .cshigh

/-- Decoding a word of either format. -/
def decode : Code → Except DecodeError Instr
  | .cmd64 d => decodeCmd64 d
  | .uop10 w => decodeUop10 w

/-- R70: a descriptor from its four fields, `OP : RSV : PRE : CNT`. -/
def descriptor (op : BitVec 2) (rsv : BitVec 14) (pre : Word) (cnt : Count) : BitVec 64 :=
  op ++ rsv ++ pre ++ cnt

/-- R79: a micro-operation word, the code above the byte. -/
def uopWord (code : BitVec 2) (b : Byte) : BitVec 10 := code ++ b

/-- The word of an instruction: R71 and R73 for the commands, R79 for the micro-operations. -/
def encode : Instr → Code
  | .wrw pre cnt => .cmd64 (descriptor 1#2 0#14 pre cnt)
  | .rdw pre cnt => .cmd64 (descriptor 2#2 0#14 pre cnt)
  | .wpp cnt => .cmd64 (descriptor 3#2 0#14 0#16 cnt)
  | .waitrdy => .uop10 (uopWord 0#2 0#8)
  | .cslow => .uop10 (uopWord 1#2 0#8)
  | .cshigh => .uop10 (uopWord 2#2 0#8)
  | .xchg out => .uop10 (uopWord 3#2 out)

/-- The word of `nbits` bits whose bits are `w`, numbered as spec/opcode_table.json numbers them: 64 bits are a
descriptor; 10 bits (16 in whole bytes, the six above the word zero) are a micro-operation word.
No other length exists (R76, R79), and a number that does not fit is no word. -/
def tableCode (nbits w : Nat) : Option Code :=
  if nbits = 64 then
    if w < 2 ^ 64 then some (.cmd64 (BitVec.ofNat 64 w)) else none
  else if nbits = 16 ∨ nbits = 10 then
    if w < 2 ^ 10 then some (.uop10 (BitVec.ofNat 10 w)) else none
  else none

/-- The instruction the decoder reads from a word of spec/opcode_table.json. -/
def decodeTableWord (nbits w : Nat) : Option Instr :=
  match tableCode nbits w with
  | some c => (decode c).toOption
  | none => none

end Sys2Proof
end

