-- ==== Sys2Proof/Machine/Types.lean ====
section
/-! DEFINITION. The values that the pins, registers and fields of spec/10_state.md can take, with their codes.
A code the spec says is never taken (`LIFE = 0b11`, `PHASE` 12 to 15, `ERR = 7`; U10 of
spec/93_implementation_defined.md) and `OP = 0`, which is never latched (R27), have no value here. -/

namespace Sys2Proof.Machine

/-- The level of an output pin: driven low, driven high, or not driven by the engine (R23). -/
inductive Pin where
  | low
  | high
  | z
deriving DecidableEq, Repr, Inhabited

/-- `LIFE` (R25). -/
inductive Life where
  | down
  | up
  | closed
deriving DecidableEq, Repr

/-- The 2-bit code of `LIFE` (R25). -/
def lifeCode : Life → BitVec 2
  | .down => 0#2
  | .up => 1#2
  | .closed => 2#2

/-- `PHASE`, the sequencer's program counter (R26). -/
inductive Phase where
  | idle
  | gate0
  | sel
  | preHi
  | preLo
  | gate1
  | dmyA
  | dmyB
  | gate2
  | datA
  | datB
  | desel
deriving DecidableEq, Repr

/-- The 4-bit code of `PHASE` (R26). -/
def phaseCode : Phase → BitVec 4
  | .idle => 0#4
  | .gate0 => 1#4
  | .sel => 2#4
  | .preHi => 3#4
  | .preLo => 4#4
  | .gate1 => 5#4
  | .dmyA => 6#4
  | .dmyB => 7#4
  | .gate2 => 8#4
  | .datA => 9#4
  | .datB => 10#4
  | .desel => 11#4

/-- `OP`, the latched operation code (R27). -/
inductive Op where
  | wrw
  | rdw
  | wpp
deriving DecidableEq, Repr, Inhabited

/-- The 2-bit code of `OP` (R71). -/
def opCode : Op → BitVec 2
  | .wrw => 1#2
  | .rdw => 2#2
  | .wpp => 3#2

/-- `ERR` (R31). -/
inductive Err where
  | none
  | illegalCmd
  | oddCount
  | lenMismatch
  | capacity
  | notUp
  | bringupFail
deriving DecidableEq, Repr

/-- The 3-bit code of `ERR` (R31). -/
def errCode : Err → BitVec 3
  | .none => 0#3
  | .illegalCmd => 1#3
  | .oddCount => 2#3
  | .lenMismatch => 3#3
  | .capacity => 4#3
  | .notUp => 5#3
  | .bringupFail => 6#3

/-- An event of the wire history (R10). A level is `true` for logic-high. -/
inductive WireEvent where
  | poll (level : Bool)
  | csLow
  | csHigh
  | xchg (out inp : Byte)
deriving DecidableEq, Repr

/-- The host's events: the whole table of R152. The length events carry the 32-bit value of their register. -/
inductive HostEvent where
  | issue (d : BitVec 64)
  | writeTXW (i : Nat) (v : Word)
  | writeTXP (i : Nat) (v : Byte)
  | writeWLEN (n : Count)
  | writePLEN (n : Count)
  | readTXW (i : Nat)
  | readTXP (i : Nat)
  | readRXW (i : Nat)
  | readWLEN
  | readPLEN
  | readRLEN
  | readSTATUS
  | bringup (ok : Bool)
  | teardown
  | reset
deriving DecidableEq, Repr

/-- What an event gives the host back (the last column of R152). -/
inductive Reply where
  | word (v : Word)
  | byte (v : Byte)
  | length (n : Count)
  | status (v : BitVec 32)
  | outcome (ok : Bool)
deriving DecidableEq, Repr

/-- Whose move is next (R12: the host and the engine never step at once). `wait` is the host waiting until
`BUSY = 0`, the line `WAIT` of R77: the engine moves, and the turn stays until the engine is at rest. R154 leaves open
how many reads of `STATUS` that takes; that a `wait` records none of them in `replies` is the model's choice (DESIGN
CHOICE, log entry 19). -/
inductive Turn where
  | host (e : HostEvent)
  | engine
  | wait
deriving DecidableEq, Repr

end Sys2Proof.Machine
end

