-- ==== Sys2Proof/Config.lean ====
section
/-! DEFINITION. What an implementation fixes (the OPEN parameters of spec/00_scope.md R6) and the free values: constants
with no body, so that nothing can be proved of the number behind one. -/

namespace Sys2Proof

/-- The OPEN parameters of R6. The capacities are at most 2^32 - 1, which is what 32 bits hold.
No rule reads the last three (U12 of spec/93_implementation_defined.md). -/
structure Params where
  /-- `WCAP`, the number of cells of `TXW`. -/
  wcap         : Count
  /-- `PCAP`, the number of cells of `TXP`. -/
  pcap         : Count
  /-- `RCAP`, the number of cells of `RXW`. -/
  rcap         : Count
  /-- `CLKDIV`, the serial clock divisor bring-up configures. -/
  clkdiv       : Nat
  /-- `SYNC_STAGES`, the depth of an input synchronizer on the ready line. -/
  syncStages   : Nat
  /-- `POLL_INTERVAL`, the time between two samples of the ready line. -/
  pollInterval : Nat
deriving DecidableEq, Repr, Inhabited

namespace Config

/-- The parameters of the implementation. DESIGN CHOICE, log entry 5; safe. -/
opaque params : Params

/-- The level the device presents at a sample of `RDY` that no script fixes, by the number of such samples
taken before (R12, R22: a free input under no law). DESIGN CHOICE, log entry 2; safe. -/
opaque rdyLevel : Nat → Bool

/-- The byte the device presents at an exchange that no script fixes, by the number of such exchanges made
before (R12, R100: a free input under no law). DESIGN CHOICE, log entry 2; safe. -/
opaque sdiByte : Nat → Byte

/-- What the never-written cells of `TXW` hold, by reset count and index (R41, U8). DESIGN CHOICE, log entry 4; unsafe only in that two reads agree. -/
opaque txwCell : Nat → Nat → Word

/-- What the never-written cells of `TXP` hold, by reset count and index (R41, U8). DESIGN CHOICE, log entry 4; unsafe only in that two reads agree. -/
opaque txpCell : Nat → Nat → Byte

/-- What the never-written cells of `RXW` hold, by reset count and index (R41, U8). DESIGN CHOICE, log entry 4; unsafe only in that two reads agree. -/
opaque rxwCell : Nat → Nat → Word

/-- What `OP` holds after the reset of this number (R41: unspecified). DESIGN CHOICE, log entry 3; unsafe only in that no code 0 exists. -/
opaque resetOp : Nat → Machine.Op

/-- What `PRE` holds after the reset of this number (R41: unspecified). DESIGN CHOICE, log entry 3; safe. -/
opaque resetPre : Nat → Word

/-- What `CNT` holds after the reset of this number (R41: unspecified). DESIGN CHOICE, log entry 3; safe. -/
opaque resetCnt : Nat → Count

/-- What `IDX` holds after the reset of this number (R41: unspecified). DESIGN CHOICE, log entry 3; safe. -/
opaque resetIdx : Nat → Count

/-- What `RXH` holds after the reset of this number (R41: unspecified). DESIGN CHOICE, log entry 3; safe. -/
opaque resetRxh : Nat → Byte

/-- The level of `SDO` between exchanges while the bus is up, by the number of events on the wire so far
(R41: unspecified). DESIGN CHOICE, log entry 10; safe. -/
opaque sdoRest : Nat → Machine.Pin

end Config

end Sys2Proof
end

