-- ==== Sys2Proof/Machine/State.lean ====
section
/-! DEFINITION. The state of the engine: every piece spec/10_state.md R20 names, then the fields that are the model's
own (the wire history of R10, which is a device of the specification, what the host was given back, and the
inputs of the device and the host); why a step can stop; and the state after reset (R41). -/

namespace Sys2Proof.Machine

/-- A buffer: the cells something has written, each with its index, the indices strictly rising. An index that is
not listed is a cell nothing has written since reset. `Memory 8` is a list of `Host.Cell`; a 16-bit cell is the
smallest addressable unit of its buffer (R50), so it is never split into bytes. -/
abbrev Memory (w : Nat) := List (Nat × BitVec w)

/-- The state (R20). -/
structure State where
  /-- the OPEN parameters of R6; no step changes them -/
  params   : Params
  /-- the pin `CSN` (R23) -/
  csn      : Pin
  /-- `LIFE` (R25) -/
  life     : Life
  /-- `PHASE` (R26) -/
  phase    : Phase
  /-- `OP` (R27) -/
  op       : Op
  /-- `PRE` (R27) -/
  pre      : Word
  /-- `CNT` (R27) -/
  cnt      : Count
  /-- `IDX` (R28) -/
  idx      : Count
  /-- `RXH` (R29) -/
  rxh      : Byte
  /-- `DONE` (R30) -/
  done     : Bool
  /-- `ERR` (R31) -/
  err      : Err
  /-- `WLEN` (R35) -/
  wlen     : Count
  /-- `PLEN` (R35) -/
  plen     : Count
  /-- `RLEN` (R35) -/
  rlen     : Count
  /-- `TXW` (R36) -/
  txw      : Memory 16
  /-- `TXP` (R37) -/
  txp      : Memory 8
  /-- `RXW` (R38) -/
  rxw      : Memory 16
  /-- `WIRE` (R10), oldest event first; no rule of the engine reads it -/
  wire     : List WireEvent
  /-- what the host was given back, oldest first (R152); nothing reads it -/
  replies  : List Reply
  /-- the device's script of ready levels, one a sample (D30); when it is spent the level is free (R12) -/
  levels   : List Bool
  /-- the device's script of bytes, one an exchange (D30); when it is spent the byte is free (R12) -/
  bytes    : List Byte
  /-- whose move comes next (R12); when it is spent the engine moves -/
  turns    : List Turn
  /-- how many samples no script fixed -/
  rdyDraws : Nat
  /-- how many exchanges no script fixed -/
  sdiDraws : Nat
  /-- how many resets came after the first -/
  resets   : Nat
deriving DecidableEq, Repr

/-- Why the machine stops. -/
inductive Fault where
  /-- Raised by the engine's buffer accesses (the fetch of a data byte, the store of a received word): the index
  names no cell (R60: a cell index at or above the capacity names no cell). Safe: R68 says no run reaches it. -/
  | noSuchCell
deriving DecidableEq, Repr

/-- Why the model gives a run no meaning. -/
inductive Refusal where
  /-- Raised by an arm of `exec` whose instruction has no meaning yet. Safe. -/
  | notModelled (mnemonic : String)
  /-- Raised by a host event whose guard does not hold: it is not a move of the host in that state
  (R152, R185, R186, R191; a model refuses such a run: D19, U3). Safe for a host that keeps its duties;
  what another host would see is outside the spec. -/
  | notAHostMove
  /-- Raised by a micro-operation performed in a phase that does not perform it (R90, R111, R112, R100: each is
  performed only in its own phases). Safe: the sequencer never does so. -/
  | microOpOutOfPhase
  /-- Raised when the sequencer's own word does not decode (R79: it never forms such a word). Safe. -/
  | badMicroWord
deriving DecidableEq, Repr

/-- The state after the reset of number `n` of an implementation with parameters `p` (R41), nothing on the wire,
nothing read back, no script. The registers and cells that R41 leaves unspecified hold free values. -/
def State.atReset (p : Params) (n : Nat) : State where
  params := p
  csn := .z
  life := .down
  phase := .idle
  op := Config.resetOp n
  pre := Config.resetPre n
  cnt := Config.resetCnt n
  idx := Config.resetIdx n
  rxh := Config.resetRxh n
  done := false
  err := .none
  wlen := 0#32
  plen := 0#32
  rlen := 0#32
  txw := []
  txp := []
  rxw := []
  wire := []
  replies := []
  levels := []
  bytes := []
  turns := []
  rdyDraws := 0
  sdiDraws := 0
  resets := n

/-- The machine right after reset (R41, R180). -/
def State.reset : State := State.atReset Config.params 0

end Sys2Proof.Machine
end

