-- ==== Sys2Proof/Machine/Operands.lean ====
section
/-! DEFINITION. The operands: the bytes of a word and the word of two bytes (R8, R51, R54), the eight bits of an
exchange (R53, R102), the cells of the buffers (R36 to R38, R50), and what the pins carry (R24, R41). -/

namespace Sys2Proof.Machine

/-- `hi(w) = w[15:8]` (R8). -/
def hi (w : Word) : Byte := w.extractLsb 15 8

/-- `lo(w) = w[7:0]` (R8). -/
def lo (w : Word) : Byte := w.extractLsb 7 0

/-- `(first << 8) | second`, that is `first : second` (R7, R54). -/
def joinBytes (first second : Byte) : Word := (first.setWidth 16 <<< 8) ||| second.setWidth 16

/-- The bits of a byte in the order they pass a data line, bit 7 first (R53): bit k of the list is bit 7 - k of
the byte (R102). -/
def lineBits (b : Byte) : List Bool := (List.range 8).map (fun k => b.getLsbD (7 - k))

/-- One period of the receive shift register (R102): the bit sampled from `SDI` enters below. -/
def shiftIn (acc : Byte) (bit : Bool) : Byte := (acc <<< 1) ||| (if bit then 1#8 else 0#8)

/-- The byte assembled from the bits sampled from `SDI`, the first of them bit 7 (R53, R102). -/
def byteOfLine (bits : List Bool) : Byte := bits.foldl shiftIn 0#8

/-- The value of cell `i` of a buffer, `free` standing for a cell nothing has written (R41, U8). -/
def readCell {w : Nat} (m : Memory w) (free : Nat → BitVec w) (i : Nat) : BitVec w :=
  (m.lookup i).getD (free i)

/-- A write of cell `i` of a buffer: the list stays sorted by index, with one entry an index. -/
def writeCell {w : Nat} : Memory w → Nat → BitVec w → Memory w
  | [], i, v => [(i, v)]
  | (j, u) :: m, i, v =>
    if i < j then (i, v) :: (j, u) :: m
    else if i = j then (i, v) :: m
    else (j, u) :: writeCell m i v

/-- The canonical form of a buffer of `cap` cells: the indices strictly rising, each below the capacity. -/
abbrev Memory.wf {w : Nat} (cap : Nat) (m : Memory w) : Prop :=
  (m.map Prod.fst).Pairwise (· < ·) ∧ ∀ i ∈ m.map Prod.fst, i < cap

/-- `TXW[i]` (R36). -/
def readTXW (s : State) (i : Nat) : Word := readCell s.txw (Config.txwCell s.resets) i

/-- `TXP[i]` (R37). -/
def readTXP (s : State) (i : Nat) : Byte := readCell s.txp (Config.txpCell s.resets) i

/-- `RXW[i]` (R38). -/
def readRXW (s : State) (i : Nat) : Word := readCell s.rxw (Config.rxwCell s.resets) i

/-- The level the device presents at the next sample (R12, R91). -/
def rdyLevel (s : State) : Bool := s.levels.headD (Config.rdyLevel s.rdyDraws)

/-- The byte the device presents at the next exchange (R12, R100). -/
def sdiByte (s : State) : Byte := s.bytes.headD (Config.sdiByte s.sdiDraws)

/-- The byte the engine receives at the next exchange: the eight levels of `SDI`, shifted in (R102). -/
def receivedByte (s : State) : Byte := byteOfLine (lineBits (sdiByte s))

/-- The level of `SCLK` between exchanges: not driven until the bus is up (R41); while it is up the level at which mode 0
lets the clock rest, low (R102; PRESUMED, G1, log entry 10). After teardown the spec gives no level, and not driven is
the model's choice (DESIGN CHOICE, log entry 18; unsafe). -/
def sclkRest (s : State) : Pin := if s.life = .up then .low else .z

/-- The level of `SDO` between exchanges: not driven until the bus is up (R41). While it is up the spec leaves it open
(R41), and it is a free value: low, high or not driven (DESIGN CHOICE, log entry 10; safe). After teardown the spec
gives no level, and not driven is the model's choice (DESIGN CHOICE, log entry 18; unsafe). -/
def sdoRest (s : State) : Pin := if s.life = .up then Config.sdoRest s.wire.length else .z

end Sys2Proof.Machine
end

