-- ==== Sys2Proof/Machine/Flags.lean ====
section
/-! DEFINITION. The flags and the status view: `BUSY` (R32), `STATUS` (R33), and which cause refuses a command (R113,
R161, R163). -/

namespace Sys2Proof.Machine

/-- `BUSY`, the bit `PHASE != IDLE` (R32). -/
def busy (s : State) : Bool := s.phase ≠ .idle

/-- `STATUS` (R33): `LIFE` in [1:0], `BUSY` in [2], `DONE` in [3], `ERR` in [6:4], zero above. -/
def status (s : State) : BitVec 32 :=
  0#25 ++ errCode s.err ++ BitVec.ofBool s.done ++ BitVec.ofBool (busy s) ++ lifeCode s.life

/-- The first cause that refuses the issue of a command of operation `op` and count `cnt`, or `none` (R113; the
order is R163's, after the decoder has found the descriptor legal). -/
def issueError (op : Op) (cnt : Count) (s : State) : Err :=
  if s.life ≠ .up then .notUp
  else
    match op with
    | .wrw => if cnt ≠ s.wlen then .lenMismatch else .none
    | .rdw => if s.params.rcap < cnt then .capacity else .none
    | .wpp =>
      if cnt.getLsbD 0 then .oddCount
      else if cnt ≠ s.plen then .lenMismatch
      else .none

/-- The cause that refuses an illegal descriptor: NOT_UP comes before ILLEGAL_CMD (R113, R163). -/
def illegalError (s : State) : Err := if s.life ≠ .up then .notUp else .illegalCmd

end Sys2Proof.Machine
end

