-- ==== Sys2Proof/Machine/Ops.lean ====
section
/-! DEFINITION. The shared operations: one poll of the ready line (R91), one byte exchange (R100), refusing a command
(R162, the engine's one exception mechanism; R165: there is no return from it), accepting one (R113, R114),
and issuing one. -/

namespace Sys2Proof.Machine

/-- An outcome of this machine. -/
abbrev Result := Host.Outcome State Fault Refusal

/-- `Sample()` (R9, R91): one level of the device is spent and recorded; nothing else changes (R92). -/
def sampled (s : State) : State :=
  { s with
    levels := s.levels.tail
    rdyDraws := if s.levels.isEmpty then s.rdyDraws + 1 else s.rdyDraws
    wire := s.wire ++ [.poll (rdyLevel s)] }

/-- `Xchg(out)` (R9, R100): one byte of the device is spent, and the pair is recorded; nothing else changes. -/
def exchanged (out : Byte) (s : State) : State :=
  { s with
    bytes := s.bytes.tail
    sdiDraws := if s.bytes.isEmpty then s.sdiDraws + 1 else s.sdiDraws
    wire := s.wire ++ [.xchg out (receivedByte s)] }

/-- `raise Reject(code)` (R162): the code is recorded, `DONE` is 0, everything else keeps its value, and control
goes nowhere. -/
def reject (code : Err) (s : State) : State := { s with err := code, done := false }

/-- The acceptance of a command (R113): its fields are latched and the first gate is entered, but a WPP command of
count 0 is complete at once (R114). -/
def accept (op : Op) (pre : Word) (cnt : Count) (s : State) : State :=
  { s with
    err := .none
    op := op
    pre := pre
    cnt := cnt
    idx := 0#32
    done := decide (op = .wpp ∧ cnt = 0#32)
    phase := if op = .wpp ∧ cnt = 0#32 then .idle else .gate0 }

/-- The issue of a legal command (R113). Its guard is `PHASE = IDLE`: while a command runs the port takes no write
(R186). -/
def issue (op : Op) (pre : Word) (cnt : Count) (s : State) : Result :=
  if s.phase = .idle then
    .next (if issueError op cnt s = .none then accept op pre cnt s else reject (issueError op cnt s) s)
  else .refused .notAHostMove

/-- The issue of a descriptor that encodes no command (R74, R113), under the same guard. -/
def issueIllegal (s : State) : Result :=
  if s.phase = .idle then .next (reject (illegalError s) s) else .refused .notAHostMove

/-- `next_data` (R115). -/
def nextData (s : State) : Phase := if s.idx < s.cnt then .datA else .desel

end Sys2Proof.Machine
end

