-- ==== Sys2Proof/Machine/ChipSelect.lean ====
section
/-! DEFINITION. The chip-select micro-operations CSLOW and CSHIGH (spec/42_frame_sequencer.md R111, R112), each with the
rest of the step of its phase (R117, R126). -/

namespace Sys2Proof.Machine

/-- CSLOW, performed in `SEL` (R111, R117). -/
def execCslow (s : State) : Result :=
  if s.phase = .sel then
    .next { s with csn := .low, phase := .preHi, wire := s.wire ++ [.csLow] }
  else .refused .microOpOutOfPhase

/-- Whether the `DESEL` step ends the command (R126): a WPP command with a pair left begins another frame. -/
def commandEnds (s : State) : Bool := decide (¬ (s.op = .wpp ∧ s.idx < s.cnt))

/-- CSHIGH, performed in `DESEL` (R112, R126). -/
def execCshigh (s : State) : Result :=
  if s.phase = .desel then
    .next { s with
      csn := .high
      phase := if commandEnds s then .idle else .gate0
      done := s.done || commandEnds s
      rlen := if s.op = .rdw then s.cnt else s.rlen
      wire := s.wire ++ [.csHigh] }
  else .refused .microOpOutOfPhase

end Sys2Proof.Machine
end

