-- ==== Sys2Proof/Machine/Commands.lean ====
section
/-! DEFINITION. The commands WRW, RDW and WPP as the host gives them (spec/43_framed_operations.md R140 to R142): the one
step of their issue (R113). The steps that follow are the micro-operations of the phases, one each, which
together perform the command (R143). -/

namespace Sys2Proof.Machine

/-- WRW (R140): the issue of a word write. -/
def execWrw (pre : Word) (cnt : Count) (s : State) : Result := issue .wrw pre cnt s

/-- RDW (R141): the issue of a word read. -/
def execRdw (pre : Word) (cnt : Count) (s : State) : Result := issue .rdw pre cnt s

/-- WPP (R142): the issue of a pixel write; its preamble is always 0x0000 (R27). -/
def execWpp (cnt : Count) (s : State) : Result := issue .wpp 0#16 cnt s

end Sys2Proof.Machine
end

