-- ==== Sys2Proof/Machine/Duplex.lean ====
section
/-! DEFINITION. The duplex byte exchange controller: XCHG (spec/41_duplex_byte_channel.md), with what each phase does
with the received byte (R105) and the rest of its step (R118, R119, R121, R122, R124, R125). -/

namespace Sys2Proof.Machine

/-- The step of `DAT_A` (R124): only RDW keeps the byte, in `RXH`. -/
def dataFirst (out : Byte) (s : State) : State :=
  { exchanged out s with
    rxh := if s.op = .rdw then receivedByte s else s.rxh
    phase := .datB }

/-- By how much `IDX` advances after an element (R125): one word, or one pair of pixels. -/
def elementSize : Op → Count
  | .wrw => 1#32
  | .rdw => 1#32
  | .wpp => 2#32

/-- The phase after `DAT_B` (R125): another word while there is one; after a pixel pair always `DESEL`. -/
def afterElement (s : State) : Phase :=
  if s.op ≠ .wpp ∧ s.idx + elementSize s.op < s.cnt then .datA else .desel

/-- The step of `DAT_B` (R125): only RDW keeps the byte, joined below `RXH`, in `RXW[IDX]`. -/
def dataSecond (out : Byte) (s : State) : State :=
  { exchanged out s with
    rxw := if s.op = .rdw then writeCell s.rxw s.idx.toNat (joinBytes s.rxh (receivedByte s)) else s.rxw
    idx := s.idx + elementSize s.op
    phase := afterElement s }

/-- XCHG (R100) in the phase that performs it. A store of a received word needs a cell (R60). -/
def execXchg (out : Byte) (s : State) : Result :=
  match s.phase with
  | .preHi => .next { exchanged out s with phase := .preLo }
  | .preLo => .next { exchanged out s with phase := .gate1 }
  | .dmyA => .next { exchanged out s with phase := .dmyB }
  | .dmyB => .next { exchanged out s with phase := .gate2 }
  | .datA => .next (dataFirst out s)
  | .datB =>
    if s.op = .rdw ∧ s.params.rcap ≤ s.idx then .fault .noSuchCell else .next (dataSecond out s)
  | _ => .refused .microOpOutOfPhase

end Sys2Proof.Machine
end

