-- ==== Sys2Proof/Machine/Gate.lean ====
section
/-! DEFINITION. The ready gate: WAITRDY (spec/40_ready_gate.md). -/

namespace Sys2Proof.Machine

/-- The phase a gate leads to when its sample reads 1 (R116, R120, R123); none for a phase that is no gate. -/
def gateExit (s : State) : Option Phase :=
  match s.phase with
  | .gate0 => some .sel
  | .gate1 => some (if s.op = .rdw then .dmyA else nextData s)
  | .gate2 => some (nextData s)
  | _ => none

/-- WAITRDY (R90, R91): one poll; a sample that reads 1 leaves the gate, another stays in it. -/
def execWaitrdy (s : State) : Result :=
  match gateExit s with
  | some exit => .next { sampled s with phase := if rdyLevel s then exit else s.phase }
  | none => .refused .microOpOutOfPhase

end Sys2Proof.Machine
end

