-- ==== Sys2Proof/Machine/Dispatch.lean ====
section
/-! DEFINITION. One arm per instruction. -/

namespace Sys2Proof.Machine

def exec (i : Instr) (s : State) : Host.Outcome State Fault Refusal :=
  match i with
  | .wrw pre cnt => Sys2Proof.Machine.execWrw pre cnt s
  | .rdw pre cnt => Sys2Proof.Machine.execRdw pre cnt s
  | .wpp cnt => Sys2Proof.Machine.execWpp cnt s
  | .waitrdy => Sys2Proof.Machine.execWaitrdy s
  | .cslow => Sys2Proof.Machine.execCslow s
  | .cshigh => Sys2Proof.Machine.execCshigh s
  | .xchg out => Sys2Proof.Machine.execXchg out s

end Sys2Proof.Machine
end

