-- ==== Sys2Proof/Machine/Lifecycle.lean ====
section
/-! DEFINITION. The lifecycle events BRINGUP and TEARDOWN (spec/44_lifecycle_host.md R150, R151) and the reset event
(spec/70_reset_and_hazards.md R180, R181). -/

namespace Sys2Proof.Machine

/-- What BRINGUP(ok) does to the state (R150; a failure, R167). It makes no wire event. -/
def broughtUp (ok : Bool) (s : State) : State :=
  if ok then { s with life := .up, csn := .high, err := .none, done := false }
  else { s with err := .bringupFail }

/-- BRINGUP(ok) (R150), possible only from `DOWN`; the host is told the outcome (R152). -/
def bringup (ok : Bool) (s : State) : Result :=
  if s.life = .down then
    .next { broughtUp ok s with replies := s.replies ++ [.outcome ok] }
  else .refused .notAHostMove

/-- TEARDOWN (R151), possible only when the bus is up and the engine at rest. -/
def teardown (s : State) : Result :=
  if s.life = .up ∧ s.phase = .idle then .next { s with life := .closed, csn := .z }
  else .refused .notAHostMove

/-- The reset event (R180), possible in every state: every piece of the engine's state goes to its reset value; the
wire history gains no event, and a frame that was open in it stays unclosed (R181). What lies outside the
engine (the parameters, the device, the host) is not reset. -/
def resetEvent (s : State) : State :=
  { State.atReset s.params (s.resets + 1) with
    wire := s.wire
    replies := s.replies
    levels := s.levels
    bytes := s.bytes
    turns := s.turns
    rdyDraws := s.rdyDraws
    sdiDraws := s.sdiDraws }

end Sys2Proof.Machine
end

