-- ==== Sys2Proof/Machine/HostPort.lean ====
section
/-! DEFINITION. The host's side: every event of R152 with its guard and effect, and the register numbers of the host port
(R43). -/

namespace Sys2Proof.Machine

/-- A host event under its guard: without it the event is not a move of the host in that state (R152). -/
def guarded (g : Prop) [Decidable g] (s : State) : Result :=
  if g then .next s else .refused .notAHostMove

/-- The host is given a value back; nothing else changes (R59: a host read has no side effect). -/
def replied (r : Reply) (s : State) : State := { s with replies := s.replies ++ [r] }

/-- `Issue(d)`: the descriptor is decoded at once (R34, R84) and the command issued (R113). -/
def issueWord (d : BitVec 64) (s : State) : Result :=
  match decodeCmd64 d with
  | .ok i => exec i s
  | .error _ => issueIllegal s

/-- The host's events (R152). -/
def hostTurn (e : HostEvent) (s : State) : Result :=
  match e with
  | .issue d => issueWord d s
  | .writeTXW i v =>
    guarded (s.phase = .idle ∧ i < s.params.wcap.toNat) { s with txw := writeCell s.txw i v }
  | .writeTXP i v =>
    guarded (s.phase = .idle ∧ i < s.params.pcap.toNat) { s with txp := writeCell s.txp i v }
  | .writeWLEN n => guarded (s.phase = .idle ∧ n ≤ s.params.wcap) { s with wlen := n }
  | .writePLEN n => guarded (s.phase = .idle ∧ n ≤ s.params.pcap) { s with plen := n }
  | .readTXW i =>
    guarded (s.phase = .idle ∧ i < s.params.wcap.toNat) (replied (.word (readTXW s i)) s)
  | .readTXP i =>
    guarded (s.phase = .idle ∧ i < s.params.pcap.toNat) (replied (.byte (readTXP s i)) s)
  | .readRXW i =>
    guarded (s.phase = .idle ∧ i < s.params.rcap.toNat) (replied (.word (readRXW s i)) s)
  | .readWLEN => guarded (s.phase = .idle) (replied (.length s.wlen) s)
  | .readPLEN => guarded (s.phase = .idle) (replied (.length s.plen) s)
  | .readRLEN => guarded (s.phase = .idle) (replied (.length s.rlen) s)
  | .readSTATUS => .next (replied (.status (status s)) s)
  | .bringup ok => bringup ok s
  | .teardown => teardown s
  | .reset => .next (resetEvent s)

/-- The event of a write of `v` to host register number `n` (R43): `CMD` takes 64 bits, `WLEN` and `PLEN` 32.
`STATUS` and `RLEN` are read-only, and numbers 5 and above name no register: no event. -/
def portWrite (n : Nat) (v : BitVec 64) : Option HostEvent :=
  match n with
  | 0 => some (.issue v)
  | 2 => some (.writeWLEN (v.setWidth 32))
  | 3 => some (.writePLEN (v.setWidth 32))
  | _ => none

/-- The event of a read of host register number `n` (R43): `CMD` is write-only, and numbers 5 and above name no
register: no event. -/
def portRead (n : Nat) : Option HostEvent :=
  match n with
  | 1 => some .readSTATUS
  | 2 => some .readWLEN
  | 3 => some .readPLEN
  | 4 => some .readRLEN
  | _ => none

end Sys2Proof.Machine
end

