-- ==== Sys2Proof/Machine/Sequencer.lean ====
section
/-! DEFINITION. The frame sequencer's own part of a step: it forms the micro-operation word of the phase (R26, R79, R116
to R126), the word is decoded, and the instruction is performed (R115). -/

namespace Sys2Proof.Machine

/-- What the sequencer has to perform. -/
inductive Fetched where
  /-- the word of the phase's micro-operation -/
  | word (w : BitVec 10)
  /-- nothing: the engine is at rest (R127) -/
  | rest
  /-- a data byte whose index names no cell (R60) -/
  | noCell
deriving DecidableEq, Repr

/-- The word of XCHG with an outgoing byte (R79). -/
def xchgWord (out : Byte) : Fetched := .word (uopWord 3#2 out)

/-- The first byte on the wire of the element at `IDX` (R124): high byte, zero, or the second pixel of the pair. -/
def fetchFirst (s : State) : Fetched :=
  match s.op with
  | .wrw => if s.idx < s.params.wcap then xchgWord (hi (readTXW s s.idx.toNat)) else .noCell
  | .rdw => xchgWord 0#8
  | .wpp =>
    if s.idx + 1#32 < s.params.pcap then xchgWord (readTXP s (s.idx + 1#32).toNat) else .noCell

/-- The second byte on the wire of the element at `IDX` (R125): low byte, zero, or the first pixel of the pair. -/
def fetchSecond (s : State) : Fetched :=
  match s.op with
  | .wrw => if s.idx < s.params.wcap then xchgWord (lo (readTXW s s.idx.toNat)) else .noCell
  | .rdw => xchgWord 0#8
  | .wpp => if s.idx < s.params.pcap then xchgWord (readTXP s s.idx.toNat) else .noCell

/-- The word the sequencer forms in each phase (R26, R79). -/
def fetch (s : State) : Fetched :=
  match s.phase with
  | .idle => .rest
  | .gate0 => .word (uopWord 0#2 0#8)
  | .sel => .word (uopWord 1#2 0#8)
  | .preHi => xchgWord (hi s.pre)
  | .preLo => xchgWord (lo s.pre)
  | .gate1 => .word (uopWord 0#2 0#8)
  | .dmyA => xchgWord 0#8
  | .dmyB => xchgWord 0#8
  | .gate2 => .word (uopWord 0#2 0#8)
  | .datA => fetchFirst s
  | .datB => fetchSecond s
  | .desel => .word (uopWord 2#2 0#8)

/-- One step of the engine (R115); at rest it takes none, and nothing changes (R127). -/
def engineTurn (s : State) : Result :=
  match fetch s with
  | .rest => .next s
  | .noCell => .fault .noSuchCell
  | .word w =>
    match decodeUop10 w with
    | .ok i => exec i s
    | .error _ => .refused .badMicroWord

/-- A state whose phase makes the sequencer form the given micro-operation word next: `GATE0`, `SEL` or `DESEL` for the
three words without a byte, `PRE_HI` with the byte in the high half of `PRE` (zero below it) for an exchange. A word the
sequencer never forms (R79) changes nothing. -/
def placeMicroWord (w : BitVec 10) (s : State) : State :=
  if uopCode w = 3#2 then { s with phase := .preHi, pre := uopByte w ++ 0#8 }
  else if uopByte w ≠ 0#8 then s
  else if uopCode w = 0#2 then { s with phase := .gate0 }
  else if uopCode w = 1#2 then { s with phase := .sel }
  else { s with phase := .desel }

end Sys2Proof.Machine
end

