-- ==== Sys2Proof/Machine/Step.lean ====
section
/-! DEFINITION. The step of the machine: the move of the agent whose turn it is (R12), and the placing of one word where
the next step fetches it. -/

namespace Sys2Proof.Machine

/-- One step. A host turn is spent by its event, an engine turn by one step of the engine; a `wait` is spent when the
engine is at rest, and until then the engine moves (the reads of `STATUS` it stands for are not recorded: DESIGN CHOICE,
log entry 19); with no turn listed the engine moves. -/
def step (s : State) : Host.Outcome State Fault Refusal :=
  match s.turns with
  | [] => engineTurn s
  | .engine :: ts => engineTurn { s with turns := ts }
  | .wait :: ts => if busy s then engineTurn s else .next { s with turns := ts }
  | .host e :: ts => hostTurn e { s with turns := ts }

/-- `s` with the given instruction where the next step fetches it. A descriptor is what the host issues next, with the
sequencer at rest, since the command port takes a write in no other phase (R34, R186); a micro-operation word is
the one the sequencer forms next. A number that is no word of the table's formats changes nothing. -/
def State.withFetchWord (s : State) (nbits w : Nat) : State :=
  match tableCode nbits w with
  | some (.cmd64 d) => { s with phase := .idle, turns := .host (.issue d) :: s.turns }
  | some (.uop10 u) => { placeMicroWord u s with turns := .engine :: s.turns }
  | none => s

end Sys2Proof.Machine
end

