-- ==== Sys2Proof/Machine/HostLines.lean ====
section
/-! DEFINITION. The syntax of R77: one line of a host program and the turns it stands for. The list forms are the
buffer loads of R153 followed by one write to `CMD`. -/

namespace Sys2Proof.Machine

/-- A line of R77. -/
inductive HostLine where
  /-- `WRW <pre>, [<w0>, ...]` -/
  | wrwList (pre : Word) (ws : List Word)
  /-- `WRW <pre>, #<n>` -/
  | wrw (pre : Word) (n : Count)
  /-- `RDW <pre>, #<n>` -/
  | rdw (pre : Word) (n : Count)
  /-- `WPP [<b0>, ...]` -/
  | wppList (bs : List Byte)
  /-- `WPP #<n>` -/
  | wpp (n : Count)
  /-- `RAW <d>` -/
  | raw (d : BitVec 64)
  /-- `BRINGUP ok`, `BRINGUP fail` -/
  | bringup (ok : Bool)
  /-- `TEARDOWN` -/
  | teardown
  /-- `WAIT` -/
  | wait
deriving DecidableEq, Repr

/-- The descriptors of the three commands (R70, R71). -/
def wrwDescriptor (pre : Word) (n : Count) : BitVec 64 := descriptor 1#2 0#14 pre n
def rdwDescriptor (pre : Word) (n : Count) : BitVec 64 := descriptor 2#2 0#14 pre n
def wppDescriptor (n : Count) : BitVec 64 := descriptor 3#2 0#14 0#16 n

/-- The writes that load `TXW` from cell `i` on (R153). -/
def loadWords (i : Nat) : List Word → List Turn
  | [] => []
  | w :: ws => .host (.writeTXW i w) :: loadWords (i + 1) ws

/-- The writes that load `TXP` from cell `i` on (R153). -/
def loadPixels (i : Nat) : List Byte → List Turn
  | [] => []
  | b :: bs => .host (.writeTXP i b) :: loadPixels (i + 1) bs

/-- The length of a list as a count. -/
def countOf {α : Type} (l : List α) : Count := BitVec.ofNat 32 l.length

/-- The turns of a line (R77, R153). -/
def lineTurns : HostLine → List Turn
  | .wrwList pre ws =>
    loadWords 0 ws ++ [.host (.writeWLEN (countOf ws)), .host (.issue (wrwDescriptor pre (countOf ws)))]
  | .wrw pre n => [.host (.issue (wrwDescriptor pre n))]
  | .rdw pre n => [.host (.issue (rdwDescriptor pre n))]
  | .wppList bs =>
    loadPixels 0 bs ++ [.host (.writePLEN (countOf bs)), .host (.issue (wppDescriptor (countOf bs)))]
  | .wpp n => [.host (.issue (wppDescriptor n))]
  | .raw d => [.host (.issue d)]
  | .bringup ok => [.host (.bringup ok)]
  | .teardown => [.host .teardown]
  | .wait => [.wait]

end Sys2Proof.Machine
end

