-- ==== Sys2Proof/Safety.lean ====
section
/-! DEFINITION. The terms claims use: the invariants of R42, the form of a wire history (R129), the guards of R152, the
issue of R113 read from the raw descriptor, the wire events of the three commands (R80 to R82, R140 to R142),
and which states agree but for what the engine received or never wrote. -/

namespace Sys2Proof.Safety

open Sys2Proof.Machine

/-- The phases in which chip-select is low (R42 item 3): `PRE_HI` to `DESEL`. -/
def inFrame : Phase → Bool
  | .idle => false
  | .gate0 => false
  | .sel => false
  | _ => true

/-- The phases before the data phase. -/
def beforeData : Phase → Bool
  | .idle => false
  | .datA => false
  | .datB => false
  | .desel => false
  | _ => true

/-- The invariants of R42, item by item, and after them what makes them inductive. -/
structure Inv (s : State) : Prop where
  /-- R42 item 1 -/
  rest_unless_up : s.life ≠ .up → s.phase = .idle
  /-- R42 item 2 -/
  high_outside_frame : s.life = .up → inFrame s.phase = false → s.csn = .high
  /-- R42 item 3 -/
  low_in_frame : inFrame s.phase = true → s.csn = .low
  /-- R42 item 4 -/
  undriven_unless_up : s.life ≠ .up → s.csn = .z
  /-- R42 item 5 -/
  index_in_range : s.phase ≠ .idle → s.idx ≤ s.cnt
  /-- R42 item 5 -/
  element_left : s.phase = .datA ∨ s.phase = .datB → s.idx < s.cnt
  /-- R42 item 6 -/
  dummy_is_read : s.phase = .dmyA ∨ s.phase = .dmyB ∨ s.phase = .gate2 → s.op = .rdw
  /-- R42 item 7 -/
  pixel_command : s.op = .wpp → s.phase ≠ .idle →
    s.pre = 0#16 ∧ s.cnt.getLsbD 0 = false ∧ s.idx.getLsbD 0 = false ∧ s.cnt = s.plen
  /-- R42 item 8 -/
  write_length : s.op = .wrw → s.phase ≠ .idle → s.cnt = s.wlen
  /-- R42 item 8 -/
  read_fits : s.op = .rdw → s.phase ≠ .idle → s.cnt ≤ s.params.rcap
  /-- R42 item 9 -/
  done_means : s.done = true → s.phase = .idle ∧ s.err = .none ∧ s.idx = s.cnt
  /-- R42 item 10 -/
  error_means : s.err ≠ .none → s.done = false
  /-- a running command is neither done nor refused (R113, R164) -/
  running_clean : s.phase ≠ .idle → s.done = false ∧ s.err = .none
  /-- no command has run before the bus came up (R25, R113) -/
  down_not_done : s.life = .down → s.done = false
  /-- R35 -/
  words_fit : s.wlen ≤ s.params.wcap
  /-- R35 -/
  pixels_fit : s.plen ≤ s.params.pcap
  /-- a pixel frame is begun only when a pair is left (R120) -/
  pair_left : s.op = .wpp → s.phase ≠ .idle → s.phase ≠ .desel → s.idx < s.cnt
  /-- a word command de-asserts chip-select only when every word has moved (R125) -/
  words_done : s.op ≠ .wpp → s.phase = .desel → s.idx = s.cnt
  /-- no element has moved before the data phase of a word command (R128) -/
  index_starts_at_zero : s.op ≠ .wpp → beforeData s.phase = true → s.idx = 0#32

/-- The three buffers hold no index at or above their capacities (R50), in the model's canonical form (log entry 4). -/
structure BuffersWf (s : State) : Prop where
  txw : Memory.wf s.params.wcap.toNat s.txw
  txp : Memory.wf s.params.pcap.toNat s.txp
  rxw : Memory.wf s.params.rcap.toNat s.rxw

/-- What a reader of a wire history knows after some of its events: whether all so far were in their place, whether
every frame so far was closed before the next one was opened, whether the last event was a sample that read 1, and
whether a frame is open. -/
structure WireScan where
  legal      : Bool
  alternates : Bool
  passed     : Bool
  opened     : Bool
deriving DecidableEq, Repr

/-- R129: a `CsLow` stands right after a `Poll(1)` (d); an `Xchg` and a `CsHigh` stand in an open frame (c); and, kept
apart because a reset in a frame breaks it (R181), a `CsLow` opens a frame only when none is open (a). -/
def scanEvent (w : WireScan) : WireEvent → WireScan
  | .poll l => { w with passed := l }
  | .csLow =>
    { legal := w.legal && w.passed, alternates := w.alternates && !w.opened, passed := false, opened := true }
  | .xchg _ _ => { w with legal := w.legal && w.opened, passed := false }
  | .csHigh =>
    { legal := w.legal && w.opened, alternates := w.alternates && w.opened, passed := false, opened := false }

/-- The scan of a whole history. -/
def scanWire (h : List WireEvent) : WireScan :=
  h.foldl scanEvent { legal := true, alternates := true, passed := false, opened := false }

/-- The history is legal, and it agrees with the phase: in `SEL` the gate has just passed, in a frame a frame is open. -/
structure WireInv (s : State) : Prop where
  legal : (scanWire s.wire).legal = true
  passed : s.phase = .sel → (scanWire s.wire).passed = true
  opened : inFrame s.phase = true → (scanWire s.wire).opened = true

/-- The `CsLow` and `CsHigh` events alternate, beginning with `CsLow` (R129 (a)), and a frame is open exactly in the phases
of a frame. -/
structure FramesAlternate (s : State) : Prop where
  alternates : (scanWire s.wire).alternates = true
  opened_iff : (scanWire s.wire).opened = inFrame s.phase

/-- The guard column of the table of R152. -/
def hostGuard (e : HostEvent) (s : State) : Prop :=
  match e with
  | .issue _ => s.phase = .idle
  | .writeTXW i _ => s.phase = .idle ∧ i < s.params.wcap.toNat
  | .writeTXP i _ => s.phase = .idle ∧ i < s.params.pcap.toNat
  | .writeWLEN n => s.phase = .idle ∧ n ≤ s.params.wcap
  | .writePLEN n => s.phase = .idle ∧ n ≤ s.params.pcap
  | .readTXW i => s.phase = .idle ∧ i < s.params.wcap.toNat
  | .readTXP i => s.phase = .idle ∧ i < s.params.pcap.toNat
  | .readRXW i => s.phase = .idle ∧ i < s.params.rcap.toNat
  | .readWLEN => s.phase = .idle
  | .readPLEN => s.phase = .idle
  | .readRLEN => s.phase = .idle
  | .readSTATUS => True
  | .bringup _ => s.life = .down
  | .teardown => s.life = .up ∧ s.phase = .idle
  | .reset => True

/-- The cause that refuses the issue of the raw descriptor `d`, the checks in the order of R113. -/
def issueCause (d : BitVec 64) (s : State) : Err :=
  let op := d.extractLsb 63 62
  let rsv := d.extractLsb 61 48
  let pre := d.extractLsb 47 32
  let cnt := d.extractLsb 31 0
  if s.life ≠ .up then .notUp
  else if op = 0#2 ∨ rsv ≠ 0#14 ∨ (op = 3#2 ∧ pre ≠ 0#16) then .illegalCmd
  else if op = 3#2 ∧ cnt.getLsbD 0 = true then .oddCount
  else if op = 1#2 ∧ cnt ≠ s.wlen then .lenMismatch
  else if op = 3#2 ∧ cnt ≠ s.plen then .lenMismatch
  else if op = 2#2 ∧ s.params.rcap < cnt then .capacity
  else .none

/-- The operation an accepted descriptor latches (R71). -/
def opOfCode (c : BitVec 2) : Op := if c = 1#2 then .wrw else if c = 2#2 then .rdw else .wpp

/-- The device presents the level `l` at the next sample, and `ls` and `n` are its script and its count of free levels
afterwards: a level of the script, or a free one when the script is spent (R12, R22). -/
def DeviceLevel (s : State) (l : Bool) (ls : List Bool) (n : Nat) : Prop :=
  (s.levels = l :: ls ∧ n = s.rdyDraws) ∨ (s.levels = [] ∧ ls = [] ∧ n = s.rdyDraws + 1)

/-- The device presents the byte `b` at the next exchange, likewise (R12, R100). -/
def DeviceByte (s : State) (b : Byte) (bs : List Byte) (n : Nat) : Prop :=
  (s.bytes = b :: bs ∧ n = s.sdiDraws) ∨ (s.bytes = [] ∧ bs = [] ∧ n = s.sdiDraws + 1)

/-- The levels of a gate that reads 0 `z` times and then 1. -/
def gateLevels (z : Nat) : List Bool := List.replicate z false ++ [true]

/-- `Gate` (the notation of spec/43_framed_operations.md): `z` times `Poll(0)`, then `Poll(1)`. -/
def gateEvents (z : Nat) : List WireEvent := (gateLevels z).map .poll

/-- The exchanges that send `outs` and receive `ins`. -/
def exchanges (outs ins : List Byte) : List WireEvent := List.zipWith .xchg outs ins

/-- The bytes of a word sequence on the wire (R51). -/
def wordBytes (ws : List Word) : List Byte := ws.flatMap (fun w => [hi w, lo w])

/-- The first `n` cells of `TXW`. -/
def wordsToSend (s : State) (n : Nat) : List Word := (List.range n).map (readTXW s)

/-- A frame of two gates (R80, R82, R140, R142): preamble `pre`, data bytes `data`, `ins` received. -/
def writeFrame (z0 z1 : Nat) (pre : Word) (data ins : List Byte) : List WireEvent :=
  gateEvents z0 ++ [.csLow] ++ exchanges [hi pre, lo pre] (ins.take 2) ++ gateEvents z1
    ++ exchanges data (ins.drop 2) ++ [.csHigh]

/-- The R frame of `n` words (R81, R141). -/
def readFrame (z0 z1 z2 : Nat) (pre : Word) (n : Nat) (ins : List Byte) : List WireEvent :=
  gateEvents z0 ++ [.csLow] ++ exchanges [hi pre, lo pre] (ins.take 2) ++ gateEvents z1
    ++ exchanges [0#8, 0#8] ((ins.drop 2).take 2) ++ gateEvents z2
    ++ exchanges (List.replicate (2 * n) 0#8) (ins.drop 4) ++ [.csHigh]

/-- The P frames of a pixel write from pair `j` on (R82, R142): one frame a pair, the second pixel first. `zs` gives
the two gates of each frame, `ins` the received bytes, four a frame. -/
def pixelFrames (px : Nat → Byte) (j : Nat) : List (Nat × Nat) → List Byte → List WireEvent
  | [], _ => []
  | z :: zs, ins =>
    writeFrame z.1 z.2 0#16 [px (2 * j + 1), px (2 * j)] (ins.take 4)
      ++ pixelFrames px (j + 1) zs (ins.drop 4)

/-- The levels of the gates of a pixel write. -/
def pixelLevels (zs : List (Nat × Nat)) : List Bool :=
  zs.flatMap (fun z => gateLevels z.1 ++ gateLevels z.2)

/-- How many samples of a pixel write read 0 (`z` of R132). -/
def pixelZeros (zs : List (Nat × Nat)) : Nat := (zs.map (fun z => z.1 + z.2)).sum

/-- The words of the received bytes, two bytes a word, the first the high one (R54). -/
def receivedWords : List Byte → List Word
  | a :: b :: r => joinBytes a b :: receivedWords r
  | _ => []

/-- The first byte of the last received pair, or `h` if none came: what `RXH` holds afterwards (R29). -/
def lastFirst (h : Byte) : List Byte → Byte
  | a :: _ :: r => lastFirst a r
  | _ => h

/-- A buffer after the words `ws` were stored in order from cell `i` on (R38). -/
def storeWords (m : Memory 16) (i : Nat) : List Word → Memory 16
  | [] => m
  | w :: ws => storeWords (writeCell m i w) (i + 1) ws

/-- An event without what was received in it. -/
def sentPart : WireEvent → WireEvent
  | .xchg out _ => .xchg out 0#8
  | e => e

/-- Two states that agree in everything but what the device's bytes can reach: the bytes themselves, `RXH`, `RXW`, the
received halves of the wire events, and what the host read back. -/
structure SameButReceived (s t : State) : Prop where
  rest_equal : t = { s with
    bytes := t.bytes
    sdiDraws := t.sdiDraws
    rxh := t.rxh
    rxw := t.rxw
    wire := t.wire
    replies := t.replies }
  sent_equal : t.wire.map sentPart = s.wire.map sentPart

/-- Two states that agree in everything but registers that hold nothing yet (R41): `OP`, `PRE`, `CNT`, `IDX` while no
command runs, `RXH` outside the second half of a received word. -/
structure SameButUnwritten (s t : State) : Prop where
  rest_equal : t = { s with
    op := t.op
    pre := t.pre
    cnt := t.cnt
    idx := t.idx
    rxh := t.rxh }
  running_equal : s.phase ≠ .idle → t.op = s.op ∧ t.pre = s.pre ∧ t.cnt = s.cnt ∧ t.idx = s.idx
  half_equal : s.phase = .datB → s.op = .rdw → t.rxh = s.rxh

/-- The arrows of the table of R128 for a step of a running engine in which the ready sample, if one was taken, read
`r`: from the state `s` to the phase `p`. -/
def arrow (s : State) (r : Bool) (p : Phase) : Prop :=
  match s.phase with
  | .idle => False
  | .gate0 => p = if r then .sel else .gate0
  | .sel => p = .preHi
  | .preHi => p = .preLo
  | .preLo => p = .gate1
  | .gate1 =>
    if r = false then p = .gate1
    else if s.op = .rdw then p = .dmyA
    else if s.idx < s.cnt then p = .datA
    else s.op = .wrw ∧ s.cnt = 0#32 ∧ p = .desel
  | .dmyA => p = .dmyB
  | .dmyB => p = .gate2
  | .gate2 =>
    if r = false then p = .gate2
    else if s.idx < s.cnt then s.idx = 0#32 ∧ p = .datA
    else s.cnt = 0#32 ∧ p = .desel
  | .datA => p = .datB
  | .datB => p = if s.op ≠ .wpp ∧ s.idx + 1#32 < s.cnt then .datA else .desel
  | .desel => p = if s.op = .wpp ∧ s.idx < s.cnt then .gate0 else .idle

end Sys2Proof.Safety
end

