-- ==== Sys2Proof/Certificates/Slice0/Obligations.lean ====
section
/-! DEFINITION. The statements for the provers. -/

open Sys2Proof Sys2Proof.Machine Sys2Proof.Safety

-- ==== encoding ====

/-- R71, R73, R79, R84: decoding the word of an instruction gives the instruction back, every operand at every value. -/
def Obligations.EncodedInstructionDecodesToItself : Prop :=
  ∀ i : Instr, decode (encode i) = .ok i

/-- R73, R79: each word has at most one meaning, so a word that decodes is the word of what it decodes to. -/
def Obligations.DecodedWordIsTheWordOfItsInstruction : Prop :=
  ∀ (c : Code) (i : Instr), decode c = .ok i → encode i = c

/-- R73, R79: the decoder, written from the fields, accepts exactly the words that match a row of the opcode map or
that R79 lets the sequencer form; and no descriptor matches two rows of the map. -/
def Obligations.DecoderAcceptsExactlyTheOpcodeMap : Prop :=
  (∀ c : Code, (∃ i, decode c = .ok i) ↔ c.wellFormed = true) ∧
  (∀ (d : BitVec 64) (r r' : OpcodeRow), r ∈ opcodeMap → r' ∈ opcodeMap →
    r.selects d = true → r'.selects d = true → r = r')

/-- R84: decoding a descriptor, case by case, from its raw bits. -/
def Obligations.DescriptorDecodesByItsFields : Prop :=
  ∀ d : BitVec 64,
    if d.extractLsb 63 62 = 0#2 ∨ d.extractLsb 61 48 ≠ 0#14
        ∨ (d.extractLsb 63 62 = 3#2 ∧ d.extractLsb 47 32 ≠ 0#16) then
      ∃ e, decodeCmd64 d = .error e
    else
      (d.extractLsb 63 62 = 1#2 → decodeCmd64 d = .ok (.wrw (d.extractLsb 47 32) (d.extractLsb 31 0))) ∧
      (d.extractLsb 63 62 = 2#2 → decodeCmd64 d = .ok (.rdw (d.extractLsb 47 32) (d.extractLsb 31 0))) ∧
      (d.extractLsb 63 62 = 3#2 → decodeCmd64 d = .ok (.wpp (d.extractLsb 31 0)))

/-- R73, R79: a word of each row, written out from the encoding tables, decodes to its instruction. That a 10-bit
micro-operation word of R79 is passed as 16 bits, the six above it zero, is the model's choice (DESIGN CHOICE, log
entry 14). -/
def Obligations.WordsWrittenOutFromTheTablesDecode : Prop :=
  decodeTableWord 64 0x4000600000000002 = some (.wrw 0x6000#16 2#32) ∧
  decodeTableWord 64 0x8000100000000003 = some (.rdw 0x1000#16 3#32) ∧
  decodeTableWord 64 0xC000000000000004 = some (.wpp 4#32) ∧
  decodeTableWord 16 0b0000000000 = some .waitrdy ∧
  decodeTableWord 16 0b0100000000 = some .cslow ∧
  decodeTableWord 16 0b1000000000 = some .cshigh ∧
  decodeTableWord 16 0b1110100101 = some (.xchg 0xA5#8)

-- ==== operands ====

/-- R8: the high and the low byte of a word. -/
def Obligations.WordIsItsHighAndLowByte : Prop :=
  ∀ w : Word, hi w = w.extractLsb 15 8 ∧ lo w = w.extractLsb 7 0 ∧ w = hi w ++ lo w ∧
    w = ((hi w).setWidth 16 <<< 8) ||| (lo w).setWidth 16

/-- R130, R54: the word of two received bytes has the first as its high byte and the second as its low byte, so the
65536 pairs give 65536 distinct words. -/
def Obligations.JoinedBytesAreHighAndLow : Prop :=
  ∀ a b : Byte, joinBytes a b = a ++ b ∧ hi (joinBytes a b) = a ∧ lo (joinBytes a b) = b

/-- R102, R53: in period k the line carries bit 7 - k of the byte sent, and the level sampled in period k becomes bit
7 - k of the byte received. -/
def Obligations.ExchangeBitsGoMostSignificantFirst : Prop :=
  (∀ (out : Byte) (k : Nat) (h : k < (lineBits out).length), (lineBits out)[k] = out.getLsbD (7 - k)) ∧
  (∀ out : Byte, (lineBits out).length = 8) ∧
  (∀ (bits : List Bool), bits.length = 8 → ∀ (k : Nat) (h : k < bits.length),
    (byteOfLine bits).getLsbD (7 - k) = bits[k])

-- ==== the machine: who moves ====

/-- R34, R79, R84, R115: a step runs the decoded instruction. A host turn that issues a descriptor is `exec` of what the
descriptor decodes to, with that turn spent; a step of the engine is `exec` of what the sequencer's word decodes to,
with its turn spent if it has one. That turns are listed in the state is the model's form (log entry 1). -/
def Obligations.StepRunsTheDecodedInstruction : Prop :=
  (∀ (s : State) (d : BitVec 64) (ts : List Turn) (i : Instr),
    s.turns = .host (.issue d) :: ts → decodeCmd64 d = .ok i → step s = exec i { s with turns := ts }) ∧
  (∀ (s : State) (w : BitVec 10) (i : Instr),
    s.turns = [] → fetch s = .word w → decodeUop10 w = .ok i → step s = exec i s) ∧
  (∀ (s : State) (w : BitVec 10) (ts : List Turn) (i : Instr),
    s.turns = .engine :: ts → fetch s = .word w → decodeUop10 w = .ok i →
    step s = exec i { s with turns := ts }) ∧
  (∀ (s : State) (w : BitVec 10) (ts : List Turn) (i : Instr),
    s.turns = .wait :: ts → fetch s = .word w → decodeUop10 w = .ok i → step s = exec i s)

/-- The word a state is given to fetch is what its next step runs (the placing is the model's, log entry 9): an
instruction's word, placed by `withFetchWord`, is performed in a state that differs from the given one only in the
phase and, for an exchange, in `PRE`. -/
def Obligations.PlacedWordRunsNext : Prop :=
  ∀ (s : State) (i : Instr), ∃ p pre,
    step (s.withFetchWord (match encode i with | .cmd64 _ => 64 | .uop10 _ => 16)
        (match encode i with | .cmd64 d => d.toNat | .uop10 w => w.toNat))
      = exec i { s with phase := p, pre := pre } ∧
    ((∀ out, i ≠ .xchg out) → pre = s.pre)

/-- R79: the sequencer forms only words that decode, and never one of code 00, 01 or 10 with a non-zero byte. -/
def Obligations.SequencerFormsOnlyLegalWords : Prop :=
  ∀ (s : State) (w : BitVec 10), fetch s = .word w →
    (∃ i, decodeUop10 w = .ok i) ∧ (w.extractLsb 9 8 ≠ 3#2 → w.extractLsb 7 0 = 0#8)

/-- At rest the engine takes no step: no sample, no event, no change of state (R127). That it then has a turn at all, a step
that changes nothing but that a listed turn is spent, is the model's choice (DESIGN CHOICE, log entry 1), and so is the
turn `wait`, which stands for the host's polling (R77, R154), records none of its reads (DESIGN CHOICE, log entry 19) and
is spent when the engine is at rest. -/
def Obligations.IdleEngineTakesNoStep : Prop :=
  ∀ s : State, s.phase = .idle →
    (s.turns = [] → step s = .next s) ∧
    (∀ ts, s.turns = .engine :: ts → step s = .next { s with turns := ts }) ∧
    (∀ ts, s.turns = .wait :: ts → step s = .next { s with turns := ts })

/-- R115: every step of a running engine appends exactly one event to the wire history and changes nothing of what the
host owns. -/
def Obligations.RunningStepMakesOneWireEvent : Prop :=
  ∀ s t : State, s.phase ≠ .idle → engineTurn s = .next t →
    ∃ e, t.wire = s.wire ++ [e] ∧
      t.txw = s.txw ∧ t.txp = s.txp ∧ t.wlen = s.wlen ∧ t.plen = s.plen ∧ t.replies = s.replies ∧ t.turns = s.turns ∧
      ((∃ l, e = .poll l) ↔ (s.phase = .gate0 ∨ s.phase = .gate1 ∨ s.phase = .gate2)) ∧
      (e = .csLow ↔ s.phase = .sel) ∧ (e = .csHigh ↔ s.phase = .desel)

-- ==== reset and lifecycle ====

/-- R41: what reset leaves, of everything R41 gives a value. -/
def Obligations.ResetLeavesTheStatedValues : Prop :=
  State.reset.csn = .z ∧ State.reset.life = .down ∧ State.reset.phase = .idle ∧
  State.reset.done = false ∧ State.reset.err = .none ∧
  State.reset.wlen = 0#32 ∧ State.reset.plen = 0#32 ∧ State.reset.rlen = 0#32 ∧
  sclkRest State.reset = .z ∧ sdoRest State.reset = .z ∧ status State.reset = 0#32 ∧
  State.reset.wire = []

/-- R180: the reset event is possible in every state, puts every piece of state that R41 gives a value at that value, and
produces no wire event; the engine is then at rest. -/
def Obligations.ResetEventIsPossibleInEveryState : Prop :=
  ∀ s : State, ∃ t, hostTurn .reset s = .next t ∧
    t.life = .down ∧ t.phase = .idle ∧ t.done = false ∧ t.err = .none ∧
    t.wlen = 0#32 ∧ t.plen = 0#32 ∧ t.rlen = 0#32 ∧ t.csn = .z ∧ t.wire = s.wire ∧
    engineTurn t = .next t

/-- R150: BRINGUP, possible exactly from `DOWN`. The field `replies` records what R152 says the host gets back (log 11). -/
def Obligations.BringupFollowsItsRule : Prop :=
  ∀ (s : State) (ok : Bool),
    if s.life = .down then
      hostTurn (.bringup ok) s = .next
        (if ok then
          { s with life := .up, csn := .high, err := .none, done := false, replies := s.replies ++ [.outcome true] }
        else { s with err := .bringupFail, replies := s.replies ++ [.outcome false] })
    else ∀ t, hostTurn (.bringup ok) s ≠ .next t

/-- R167: after a failed bring-up nothing but `ERR` has changed (and what the host was told, log 11), `LIFE` is `DOWN`,
chip-select is not driven, and every command issued is refused NOT_UP. -/
def Obligations.CommandsAfterFailedBringupAreRefused : Prop :=
  ∀ (s t : State) (d : BitVec 64), Inv s → hostTurn (.bringup false) s = .next t →
    t = { s with err := .bringupFail, replies := t.replies } ∧ t.life = .down ∧ t.csn = .z ∧
    hostTurn (.issue d) t = .next { t with err := .notUp, done := false }

/-- R151: TEARDOWN, possible exactly when the bus is up and the engine at rest; afterwards every issue is refused NOT_UP,
neither BRINGUP nor a second TEARDOWN is possible, every register and cell reads as before, and `CLOSED` is left only
by reset. -/
def Obligations.TeardownClosesTheBus : Prop :=
  (∀ s : State,
    if s.life = .up ∧ s.phase = .idle then
      ∃ t, hostTurn .teardown s = .next t ∧ t = { s with life := .closed, csn := .z } ∧
        (∀ d, hostTurn (.issue d) t = .next { t with err := .notUp, done := false }) ∧
        (∀ ok u, hostTurn (.bringup ok) t ≠ .next u) ∧
        (∀ u, hostTurn .teardown t ≠ .next u) ∧
        (∀ e r, e ≠ .readSTATUS → hostTurn e s = .next (replied r s) → hostTurn e t = .next (replied r t)) ∧
        hostTurn .readSTATUS t = .next (replied (.status (status t)) t)
    else ∀ u, hostTurn .teardown s ≠ .next u) ∧
  (∀ s t : State, s.life = .closed → step s = .next t → t.life ≠ .closed → ∃ ts, s.turns = .host .reset :: ts)

/-- R25: `LIFE` changes only from `DOWN` to `UP` by a successful bring-up, from `UP` to `CLOSED` by teardown, and to `DOWN`
by reset. -/
def Obligations.LifeChangesOnlyByItsThreeEvents : Prop :=
  ∀ s t : State, step s = .next t →
    t.life = s.life ∨
    (s.life = .down ∧ t.life = .up ∧ ∃ ts, s.turns = .host (.bringup true) :: ts) ∨
    (s.life = .up ∧ t.life = .closed ∧ ∃ ts, s.turns = .host .teardown :: ts) ∨
    (t.life = .down ∧ ∃ ts, s.turns = .host .reset :: ts)

-- ==== the host's interface ====

/-- R152: an event of the host is possible exactly when its guard holds, and is otherwise no move; that the model then
refuses is its own form (log entry 6). -/
def Obligations.HostEventsHappenExactlyUnderTheirGuards : Prop :=
  ∀ (e : HostEvent) (s : State),
    (hostGuard e s → ∃ t, hostTurn e s = .next t) ∧
    (¬ hostGuard e s → hostTurn e s = .refused .notAHostMove)

/-- R33: the layout of `STATUS`; reading it changes nothing but what the host got back (log 11), and there is no write to
it. -/
def Obligations.StatusHasItsLayout : Prop :=
  ∀ s : State,
    (status s).extractLsb 1 0 = lifeCode s.life ∧
    (status s).getLsbD 2 = decide (s.phase ≠ .idle) ∧
    (status s).getLsbD 3 = s.done ∧
    (status s).extractLsb 6 4 = errCode s.err ∧
    (status s).extractLsb 31 7 = 0#25 ∧
    hostTurn .readSTATUS s = .next { s with replies := s.replies ++ [.status (status s)] } ∧
    portRead 1 = some .readSTATUS ∧ ∀ v, portWrite 1 v = none

/-- R43: which event a write to each register number of the host port is, and which a read. R43 gives `CMD` 64 bits and
`WLEN` and `PLEN` 32; that a write of a 64-bit value passes its low 32 bits to `WLEN` and `PLEN` is the model's choice
(DESIGN CHOICE, log entry 16). -/
def Obligations.HostRegisterNumbersNameFiveRegisters : Prop :=
  ∀ (n : Nat) (v : BitVec 64),
    portWrite n v =
      (if n = 0 then some (.issue v)
       else if n = 2 then some (.writeWLEN (v.extractLsb 31 0))
       else if n = 3 then some (.writePLEN (v.extractLsb 31 0))
       else none) ∧
    portRead n =
      (if n = 1 then some .readSTATUS
       else if n = 2 then some .readWLEN
       else if n = 3 then some .readPLEN
       else if n = 4 then some .readRLEN
       else none)

/-- R36, R37, R152: a write of a transmit cell changes that cell and no other piece of state; the cell then reads as
written. -/
def Obligations.HostWriteChangesOneCell : Prop :=
  (∀ (s : State) (i : Nat) (v : Word), s.phase = .idle → i < s.params.wcap.toNat →
    ∃ t, hostTurn (.writeTXW i v) s = .next t ∧ t = { s with txw := t.txw } ∧ readTXW t i = v ∧
      ∀ j, j ≠ i → readTXW t j = readTXW s j) ∧
  (∀ (s : State) (i : Nat) (v : Byte), s.phase = .idle → i < s.params.pcap.toNat →
    ∃ t, hostTurn (.writeTXP i v) s = .next t ∧ t = { s with txp := t.txp } ∧ readTXP t i = v ∧
      ∀ j, j ≠ i → readTXP t j = readTXP s j)

/-- R35, R38, R152: what the reads and the length writes give. -/
def Obligations.HostReadsAndLengthWrites : Prop :=
  ∀ s : State, s.phase = .idle →
    (∀ n, n ≤ s.params.wcap → hostTurn (.writeWLEN n) s = .next { s with wlen := n }) ∧
    (∀ n, n ≤ s.params.pcap → hostTurn (.writePLEN n) s = .next { s with plen := n }) ∧
    (∀ i, i < s.params.wcap.toNat →
      hostTurn (.readTXW i) s = .next { s with replies := s.replies ++ [.word (readTXW s i)] }) ∧
    (∀ i, i < s.params.pcap.toNat →
      hostTurn (.readTXP i) s = .next { s with replies := s.replies ++ [.byte (readTXP s i)] }) ∧
    (∀ i, i < s.params.rcap.toNat →
      hostTurn (.readRXW i) s = .next { s with replies := s.replies ++ [.word (readRXW s i)] }) ∧
    hostTurn .readWLEN s = .next { s with replies := s.replies ++ [.length s.wlen] } ∧
    hostTurn .readPLEN s = .next { s with replies := s.replies ++ [.length s.plen] } ∧
    hostTurn .readRLEN s = .next { s with replies := s.replies ++ [.length s.rlen] }

-- ==== issue, acceptance, rejection ====

/-- R113: the issue of any 64-bit descriptor, read from its raw bits: refused with the first cause, and then nothing but
`ERR` and `DONE` has changed, or accepted; possible only at rest. -/
def Obligations.IssueFollowsItsPseudocode : Prop :=
  (∀ (s : State) (d : BitVec 64), s.phase ≠ .idle → ∀ t, hostTurn (.issue d) s ≠ .next t) ∧
  ∀ (s : State) (d : BitVec 64), s.phase = .idle →
    let op := d.extractLsb 63 62
    let cnt := d.extractLsb 31 0
    hostTurn (.issue d) s = .next
      (if issueCause d s ≠ .none then { s with err := issueCause d s, done := false }
       else
        { s with
          err := .none
          op := opOfCode op
          pre := d.extractLsb 47 32
          cnt := cnt
          idx := 0#32
          done := decide (op = 3#2 ∧ cnt = 0#32)
          phase := if op = 3#2 ∧ cnt = 0#32 then .idle else .gate0 })

/-- R74: an illegal descriptor is refused ILLEGAL_CMD with no other effect. -/
def Obligations.IllegalDescriptorIsRefused : Prop :=
  ∀ (s : State) (d : BitVec 64), s.phase = .idle → s.life = .up →
    (d.extractLsb 63 62 = 0#2 ∨ d.extractLsb 61 48 ≠ 0#14
      ∨ (d.extractLsb 63 62 = 3#2 ∧ d.extractLsb 47 32 ≠ 0#16)) →
    hostTurn (.issue d) s = .next { s with err := .illegalCmd, done := false }

/-- R162: a command refused at issue leaves every other piece of state at its value. -/
def Obligations.RejectionChangesOnlyErrAndDone : Prop :=
  ∀ (s t : State) (d : BitVec 64), hostTurn (.issue d) s = .next t → t.err ≠ .none →
    t = { s with err := t.err, done := false } ∧ t.phase = .idle

/-- R165: a rejected command leaves no trace in what follows: whatever is issued next does what it would have done had
the rejected one never been issued. -/
def Obligations.RejectedCommandLeavesNoTrace : Prop :=
  ∀ (s t : State) (d d' : BitVec 64), hostTurn (.issue d) s = .next t → t.err ≠ .none →
    hostTurn (.issue d') t = hostTurn (.issue d') s

/-- R140, R113: when WRW is accepted, and the state it then leaves. -/
def Obligations.WrwIsAccepted : Prop :=
  ∀ (s : State) (pre : Word) (cnt : Count), s.phase = .idle → s.life = .up → cnt = s.wlen →
    exec (.wrw pre cnt) s = .next
      { s with err := .none, op := .wrw, pre := pre, cnt := cnt, idx := 0#32, done := false, phase := .gate0 }

/-- R141, R113: when RDW is accepted, and the state it then leaves. -/
def Obligations.RdwIsAccepted : Prop :=
  ∀ (s : State) (pre : Word) (cnt : Count), s.phase = .idle → s.life = .up → cnt ≤ s.params.rcap →
    exec (.rdw pre cnt) s = .next
      { s with err := .none, op := .rdw, pre := pre, cnt := cnt, idx := 0#32, done := false, phase := .gate0 }

/-- R142, R113: when WPP is accepted, and the state it then leaves if there is a pair to send. -/
def Obligations.WppIsAccepted : Prop :=
  ∀ (s : State) (cnt : Count), s.phase = .idle → s.life = .up → cnt.getLsbD 0 = false → cnt = s.plen →
    cnt ≠ 0#32 →
    exec (.wpp cnt) s = .next
      { s with err := .none, op := .wpp, pre := 0#16, cnt := cnt, idx := 0#32, done := false, phase := .gate0 }

/-- R114: a WPP command of count 0 is accepted and complete at once. -/
def Obligations.EmptyPixelWriteCompletesAtOnce : Prop :=
  ∀ s : State, s.phase = .idle → s.life = .up →
    (s.plen = 0#32 → ∃ t, exec (.wpp 0#32) s = .next t ∧ t.done = true ∧ t.phase = .idle ∧ t.err = .none ∧
      t.idx = 0#32 ∧ t.cnt = 0#32 ∧ t.wire = s.wire ∧ t.csn = s.csn) ∧
    (s.plen ≠ 0#32 → exec (.wpp 0#32) s = .next { s with err := .lenMismatch, done := false })

/-- R154: after an issue exactly one of three holds: the command runs, it is complete, or it was refused by a cause of
code 1 to 5. -/
def Obligations.IssueEndsRunningDoneOrRefused : Prop :=
  ∀ (s t : State) (d : BitVec 64), hostTurn (.issue d) s = .next t →
    (t.phase = .gate0 ∧ t.done = false ∧ t.err = .none) ∨
    (t.phase = .idle ∧ t.done = true ∧ t.err = .none) ∨
    (t.phase = .idle ∧ t.done = false ∧ 1#3 ≤ errCode t.err ∧ errCode t.err ≤ 5#3)

-- ==== the micro-operations ====

/-- R91, R116, R120, R123: one poll in each of the three gates: a sample that reads 1 leaves the gate, a sample that
reads 0 stays, and nothing else changes. -/
def Obligations.WaitrdyPollsOnceInEachGate : Prop :=
  ∀ s : State, s.phase = .gate0 ∨ s.phase = .gate1 ∨ s.phase = .gate2 →
    ∃ l ls n, DeviceLevel s l ls n ∧
      exec .waitrdy s = .next
        { s with
          levels := ls
          rdyDraws := n
          wire := s.wire ++ [.poll l]
          phase :=
            if l = false then s.phase
            else if s.phase = .gate0 then .sel
            else if s.phase = .gate1 ∧ s.op = .rdw then .dmyA
            else if s.idx < s.cnt then .datA
            else .desel }

/-- R111, R117: CSLOW: its word, its effect, which is the whole step of `SEL`, and that no other phase performs it. -/
def Obligations.CslowAssertsChipSelect : Prop :=
  decodeUop10 0b0100000000#10 = .ok .cslow ∧
  (∀ s : State, s.phase = .sel → engineTurn s = exec .cslow s ∧
    exec .cslow s = .next { s with csn := .low, phase := .preHi, wire := s.wire ++ [.csLow] }) ∧
  (∀ s : State, Inv s → s.phase = .sel → s.csn = .high) ∧
  (∀ s t : State, s.phase ≠ .sel → exec .cslow s ≠ .next t)

/-- R112, R126: CSHIGH, by the operation: its word, its effect, which is the whole step of `DESEL`, and that no other
phase performs it. When the step ends a command every element has moved. -/
def Obligations.CshighDeassertsChipSelect : Prop :=
  decodeUop10 0b1000000000#10 = .ok .cshigh ∧
  (∀ s t : State, s.phase ≠ .desel → exec .cshigh s ≠ .next t) ∧
  (∀ s t : State, Inv s → s.phase = .desel → engineTurn s = .next t →
    s.csn = .low ∧ (t.phase = .idle → t.idx = t.cnt)) ∧
  ∀ s : State, s.phase = .desel → engineTurn s = exec .cshigh s ∧
    (s.op = .wrw → exec .cshigh s = .next
      { s with csn := .high, phase := .idle, done := true, wire := s.wire ++ [.csHigh] }) ∧
    (s.op = .rdw → exec .cshigh s = .next
      { s with csn := .high, phase := .idle, done := true, rlen := s.cnt, wire := s.wire ++ [.csHigh] }) ∧
    (s.op = .wpp → s.idx < s.cnt → exec .cshigh s = .next
      { s with csn := .high, phase := .gate0, wire := s.wire ++ [.csHigh] }) ∧
    (s.op = .wpp → ¬ s.idx < s.cnt → exec .cshigh s = .next
      { s with csn := .high, phase := .idle, done := true, wire := s.wire ++ [.csHigh] })

/-- R100, R105: XCHG in every phase that performs it: one byte goes out, one comes in, and the byte that came in is kept
only in the data phase of RDW. -/
def Obligations.XchgExchangesOneByte : Prop :=
  ∀ (s : State) (out : Byte),
    ((s.phase = .preHi ∨ s.phase = .preLo ∨ s.phase = .dmyA ∨ s.phase = .dmyB) →
      ∃ b bs n, DeviceByte s b bs n ∧
        exec (.xchg out) s = .next
          { s with
            bytes := bs, sdiDraws := n, wire := s.wire ++ [.xchg out b]
            phase :=
              if s.phase = .preHi then .preLo
              else if s.phase = .preLo then .gate1
              else if s.phase = .dmyA then .dmyB
              else .gate2 }) ∧
    (s.phase = .datA →
      ∃ b bs n, DeviceByte s b bs n ∧
        exec (.xchg out) s = .next
          { s with
            bytes := bs, sdiDraws := n, wire := s.wire ++ [.xchg out b], phase := .datB
            rxh := if s.op = .rdw then b else s.rxh }) ∧
    (s.phase = .datB → (s.op = .rdw → s.idx < s.params.rcap) →
      ∃ b bs n m, DeviceByte s b bs n ∧
        exec (.xchg out) s = .next
          { s with
            bytes := bs, sdiDraws := n, wire := s.wire ++ [.xchg out b]
            phase := if s.op ≠ .wpp ∧ s.idx + 1#32 < s.cnt then .datA else .desel
            rxw := m
            idx := s.idx + (if s.op = .wpp then 2#32 else 1#32) } ∧
        (s.op ≠ .rdw → m = s.rxw) ∧
        (s.op = .rdw →
          (∀ f, readCell m f s.idx.toNat = s.rxh ++ b) ∧
          ∀ f i, i ≠ s.idx.toNat → readCell m f i = readCell s.rxw f i))

/-- R118, R119, R121, R122: the steps of the preamble and of the dummy word: the byte each sends, and where it leads; the
byte received is any (log entry 2) and is kept nowhere. Where the invariants hold, the preamble of WPP is zero, and
only RDW has a dummy word. -/
def Obligations.PreambleAndDummySteps : Prop :=
  ∀ s : State,
    (Inv s → s.op = .wpp → s.phase = .preHi ∨ s.phase = .preLo → s.pre = 0#16) ∧
    (Inv s → s.phase = .dmyA ∨ s.phase = .dmyB → s.op = .rdw) ∧
    (s.phase = .preHi → ∃ b bs n, DeviceByte s b bs n ∧ engineTurn s = .next
      { s with bytes := bs, sdiDraws := n, wire := s.wire ++ [.xchg (s.pre.extractLsb 15 8) b], phase := .preLo }) ∧
    (s.phase = .preLo → ∃ b bs n, DeviceByte s b bs n ∧ engineTurn s = .next
      { s with bytes := bs, sdiDraws := n, wire := s.wire ++ [.xchg (s.pre.extractLsb 7 0) b], phase := .gate1 }) ∧
    (s.phase = .dmyA → ∃ b bs n, DeviceByte s b bs n ∧ engineTurn s = .next
      { s with bytes := bs, sdiDraws := n, wire := s.wire ++ [.xchg 0#8 b], phase := .dmyB }) ∧
    (s.phase = .dmyB → ∃ b bs n, DeviceByte s b bs n ∧ engineTurn s = .next
      { s with bytes := bs, sdiDraws := n, wire := s.wire ++ [.xchg 0#8 b], phase := .gate2 })

/-- R124: the step of `DAT_A`, for an index that names a cell. -/
def Obligations.FirstDataByteStep : Prop :=
  ∀ s : State, s.phase = .datA → (s.op = .wrw → s.idx < s.params.wcap) →
    (s.op = .wpp → s.idx + 1#32 < s.params.pcap) →
    ∃ b bs n, DeviceByte s b bs n ∧ engineTurn s = .next
      { s with
        bytes := bs
        sdiDraws := n
        wire := s.wire ++ [.xchg
          (match s.op with
           | .wrw => (readTXW s s.idx.toNat).extractLsb 15 8
           | .rdw => 0#8
           | .wpp => readTXP s (s.idx + 1#32).toNat) b]
        rxh := if s.op = .rdw then b else s.rxh
        phase := .datB }

/-- R125: the step of `DAT_B`, for an index that names a cell. -/
def Obligations.SecondDataByteStep : Prop :=
  ∀ s : State, s.phase = .datB → (s.op = .wrw → s.idx < s.params.wcap) →
    (s.op = .rdw → s.idx < s.params.rcap) → (s.op = .wpp → s.idx < s.params.pcap) →
    ∃ b bs n m, DeviceByte s b bs n ∧ engineTurn s = .next
      { s with
        bytes := bs
        sdiDraws := n
        wire := s.wire ++ [.xchg
          (match s.op with
           | .wrw => (readTXW s s.idx.toNat).extractLsb 7 0
           | .rdw => 0#8
           | .wpp => readTXP s s.idx.toNat) b]
        rxw := m
        idx := if s.op = .wpp then s.idx + 2#32 else s.idx + 1#32
        phase := if s.op ≠ .wpp ∧ s.idx + 1#32 < s.cnt then .datA else .desel } ∧
      (s.op ≠ .rdw → m = s.rxw) ∧
      (s.op = .rdw →
        (∀ f, readCell m f s.idx.toNat = (s.rxh.setWidth 16 <<< 8) ||| b.setWidth 16) ∧
        ∀ f i, i ≠ s.idx.toNat → readCell m f i = readCell s.rxw f i)

/-- R60: a data step whose index names no cell stops the machine: the fetch of a transmit cell, the store of a word. The
spec says that no run reaches such a step; the stop is the model's choice (log entry 8). -/
def Obligations.IndexWithoutACellStops : Prop :=
  ∀ s : State,
    (s.phase = .datA ∨ s.phase = .datB → s.op = .wrw → ¬ s.idx < s.params.wcap →
      engineTurn s = .fault .noSuchCell) ∧
    (s.phase = .datB → s.op = .rdw → ¬ s.idx < s.params.rcap → engineTurn s = .fault .noSuchCell) ∧
    (s.phase = .datA → s.op = .wpp → ¬ s.idx + 1#32 < s.params.pcap → engineTurn s = .fault .noSuchCell) ∧
    (s.phase = .datB → s.op = .wpp → ¬ s.idx < s.params.pcap → engineTurn s = .fault .noSuchCell)

/-- R90, R111, R112, R100: outside the phases that perform it a micro-operation has no meaning; that the model refuses it
there is its own form (log entry 7). -/
def Obligations.MicroOperationsBelongToTheirPhases : Prop :=
  ∀ s : State,
    (¬ (s.phase = .gate0 ∨ s.phase = .gate1 ∨ s.phase = .gate2) →
      exec .waitrdy s = .refused .microOpOutOfPhase) ∧
    (s.phase ≠ .sel → exec .cslow s = .refused .microOpOutOfPhase) ∧
    (s.phase ≠ .desel → exec .cshigh s = .refused .microOpOutOfPhase) ∧
    (∀ out, ¬ (s.phase = .preHi ∨ s.phase = .preLo ∨ s.phase = .dmyA ∨ s.phase = .dmyB
        ∨ s.phase = .datA ∨ s.phase = .datB) → exec (.xchg out) s = .refused .microOpOutOfPhase)

-- ==== frames ====

/-- The frame of WRW, RDW and WPP (R113, R162): an issue touches only `ERR`, `DONE`, the latched fields, `IDX` and `PHASE`;
every cell of every buffer reads as before. -/
def Obligations.CommandIssueFrame : Prop :=
  ∀ (s t : State) (i : Instr),
    ((∃ pre cnt, i = .wrw pre cnt) ∨ (∃ pre cnt, i = .rdw pre cnt) ∨ (∃ cnt, i = .wpp cnt)) →
    exec i s = .next t →
    t.params = s.params ∧ t.csn = s.csn ∧ t.life = s.life ∧ t.rxh = s.rxh ∧
    t.wlen = s.wlen ∧ t.plen = s.plen ∧ t.rlen = s.rlen ∧ t.wire = s.wire ∧ t.replies = s.replies ∧
    t.levels = s.levels ∧ t.bytes = s.bytes ∧ t.turns = s.turns ∧ t.rdyDraws = s.rdyDraws ∧
    t.sdiDraws = s.sdiDraws ∧ t.resets = s.resets ∧
    (t.err ≠ .none → t.op = s.op ∧ t.pre = s.pre ∧ t.cnt = s.cnt ∧ t.idx = s.idx ∧ t.phase = s.phase) ∧
    ∀ a, readTXW t a = readTXW s a ∧ readTXP t a = readTXP s a ∧ readRXW t a = readRXW s a

/-- The frame of WAITRDY, CSLOW and CSHIGH (R92, R111, R112): no latched field, no `IDX`, no `RXH`, no length but `RLEN` at
the end of a read, no `ERR`, and no cell changes; only CSLOW and CSHIGH move chip-select; only CSHIGH sets `DONE`. -/
def Obligations.GateAndSelectFrame : Prop :=
  ∀ (s t : State) (i : Instr), i = .waitrdy ∨ i = .cslow ∨ i = .cshigh → exec i s = .next t →
    t.params = s.params ∧ t.life = s.life ∧ t.op = s.op ∧ t.pre = s.pre ∧ t.cnt = s.cnt ∧ t.idx = s.idx ∧
    t.rxh = s.rxh ∧ t.err = s.err ∧ t.wlen = s.wlen ∧ t.plen = s.plen ∧ t.replies = s.replies ∧
    t.bytes = s.bytes ∧ t.sdiDraws = s.sdiDraws ∧ t.turns = s.turns ∧ t.resets = s.resets ∧
    (i = .waitrdy → t.csn = s.csn) ∧
    (i ≠ .waitrdy → t.levels = s.levels ∧ t.rdyDraws = s.rdyDraws) ∧
    (i ≠ .cshigh → t.done = s.done) ∧
    (i ≠ .cshigh ∨ s.op ≠ .rdw → t.rlen = s.rlen) ∧
    ∀ a, readTXW t a = readTXW s a ∧ readTXP t a = readTXP s a ∧ readRXW t a = readRXW s a

/-- The frame of XCHG (R100, R105): a form that stores, the second byte of a word of RDW, changes the cell of `RXW` at `IDX`
and no other; any other form changes no cell. No flag, no length and no latched field changes; `IDX` only with the
second byte of an element, `RXH` only with the first byte of a word of RDW. -/
def Obligations.ExchangeFrame : Prop :=
  ∀ (s t : State) (out : Byte), exec (.xchg out) s = .next t →
    t.params = s.params ∧ t.csn = s.csn ∧ t.life = s.life ∧ t.op = s.op ∧ t.pre = s.pre ∧ t.cnt = s.cnt ∧
    t.done = s.done ∧ t.err = s.err ∧ t.wlen = s.wlen ∧ t.plen = s.plen ∧ t.rlen = s.rlen ∧
    t.replies = s.replies ∧ t.levels = s.levels ∧ t.rdyDraws = s.rdyDraws ∧ t.turns = s.turns ∧
    t.resets = s.resets ∧
    (s.phase ≠ .datB → t.idx = s.idx) ∧
    (¬ (s.phase = .datA ∧ s.op = .rdw) → t.rxh = s.rxh) ∧
    (∀ a, readTXW t a = readTXW s a ∧ readTXP t a = readTXP s a) ∧
    (¬ (s.phase = .datB ∧ s.op = .rdw) → ∀ a, readRXW t a = readRXW s a) ∧
    (s.phase = .datB → s.op = .rdw → ∀ a, a ≠ s.idx.toNat → readRXW t a = readRXW s a)

-- ==== rules of the whole machine ====

/-- R42: the invariants hold after reset, whatever the device and the host are going to do: those of R42, those of the wire
history (R129), and the buffers' canonical form, which is the model's choice (DESIGN CHOICE, log entry 4). -/
def Obligations.InvariantsHoldAtReset : Prop :=
  ∀ (levels : List Bool) (bytes : List Byte) (turns : List Turn),
    Inv { State.reset with levels := levels, bytes := bytes, turns := turns } ∧
    BuffersWf { State.reset with levels := levels, bytes := bytes, turns := turns } ∧
    WireInv { State.reset with levels := levels, bytes := bytes, turns := turns } ∧
    FramesAlternate { State.reset with levels := levels, bytes := bytes, turns := turns }

/-- R42: every step keeps the invariants. -/
def Obligations.StepKeepsTheInvariants : Prop :=
  ∀ s t : State, Inv s → step s = .next t → Inv t

/-- Every step keeps each buffer free of an index at or above its capacity (R50, R60, R68). It also keeps the buffer a list
of rising indices: that canonical form is the model's choice (DESIGN CHOICE, log entry 4), no part of a rule. -/
def Obligations.StepKeepsTheBuffersCanonical : Prop :=
  ∀ s t : State, BuffersWf s → step s = .next t → BuffersWf t

/-- R129 (a), (c), (d). Every step keeps each `CsLow` right after a `Poll(1)` and each `Xchg` and each `CsHigh` in an open
frame. Every step but a reset in a frame, which leaves the frame unclosed (R181), also keeps the `CsLow` and `CsHigh`
events alternating, the first a `CsLow`, with a frame open exactly in the phases of a frame: so at rest every frame is
closed. -/
def Obligations.StepKeepsTheWireLegal : Prop :=
  (∀ s t : State, WireInv s → step s = .next t → WireInv t) ∧
  (∀ s t : State, FramesAlternate s → (∀ ts, s.turns = .host .reset :: ts → inFrame s.phase = false) →
    step s = .next t → FramesAlternate t)

/-- R68, R164, R178: where the invariants hold no step of the engine stops: it takes its step, or is at rest. -/
def Obligations.EngineNeverStops : Prop :=
  ∀ s : State, Inv s → ∃ t, engineTurn s = .next t

/-- R128: the phase order. A step of a running engine takes an arrow of the table, on the sample it took; a host event
leaves the phase alone, but for the acceptance of a command that has a frame to send, and reset. -/
def Obligations.PhaseMovesOnlyAlongTheTable : Prop :=
  (∀ s t : State, Inv s → s.phase ≠ .idle → engineTurn s = .next t →
    ∃ r, ((∃ l, t.wire = s.wire ++ [.poll l]) → t.wire = s.wire ++ [.poll r]) ∧ arrow s r t.phase) ∧
  (∀ (s t : State) (d : BitVec 64), hostTurn (.issue d) s = .next t →
    if issueCause d s = .none ∧ ¬ (d.extractLsb 63 62 = 3#2 ∧ d.extractLsb 31 0 = 0#32) then t.phase = .gate0
    else t.phase = .idle) ∧
  (∀ (s t : State) (e : HostEvent), hostTurn e s = .next t →
    t.phase = s.phase ∨
    (s.phase = .idle ∧ t.phase = .gate0 ∧
      ∃ d, e = .issue d ∧ issueCause d s = .none ∧
        ¬ (d.extractLsb 63 62 = 3#2 ∧ d.extractLsb 31 0 = 0#32)) ∨
    (e = .reset ∧ t.phase = .idle))

/-- R27: `OP`, `PRE` and `CNT` are written together at the acceptance of a command, and by nothing else but reset. -/
def Obligations.LatchedFieldsChangeOnlyAtAcceptance : Prop :=
  ∀ s t : State, step s = .next t →
    (t.op = s.op ∧ t.pre = s.pre ∧ t.cnt = s.cnt) ∨
    (∃ d ts, s.turns = .host (.issue d) :: ts ∧ issueCause d s = .none ∧ s.phase = .idle ∧
      t.op = opOfCode (d.extractLsb 63 62) ∧ t.pre = d.extractLsb 47 32 ∧ t.cnt = d.extractLsb 31 0) ∨
    (∃ ts, s.turns = .host .reset :: ts)

/-- R36, R37, R38: the engine never writes `TXW`, `TXP`, `WLEN` or `PLEN`; in a step it writes at most the cell of `RXW` at
`IDX`, and only for RDW; the host never writes `RXW` (reset apart). -/
def Obligations.BuffersAreWrittenOnlyByTheirWriters : Prop :=
  (∀ s t : State, engineTurn s = .next t →
    t.txw = s.txw ∧ t.txp = s.txp ∧ t.wlen = s.wlen ∧ t.plen = s.plen ∧
    (¬ (s.phase = .datB ∧ s.op = .rdw) → t.rxw = s.rxw) ∧
    ∀ a, a ≠ s.idx.toNat → readRXW t a = readRXW s a) ∧
  (∀ (s t : State) (e : HostEvent), hostTurn e s = .next t → e ≠ .reset → t.rxw = s.rxw)

/-- R131, R189: what the engine sends does not depend on anything it receives. Two states that differ only in the
device's bytes and in what came of them take the same step, and differ only so afterwards. -/
def Obligations.ReceivedBytesNeverReachTheWire : Prop :=
  ∀ s t s' : State, SameButReceived s t → step s = .next s' →
    ∃ t', step t = .next t' ∧ SameButReceived s' t'

/-- R41: the registers that reset leaves unspecified are never read before they are written, so that no run depends on
what the model lets them hold. -/
def Obligations.UnwrittenRegistersNeverMatter : Prop :=
  ∀ s t s' : State, SameButUnwritten s t → step s = .next s' →
    ∃ t', step t = .next t' ∧ SameButUnwritten s' t'

-- ==== whole commands ====

/-- R93: while every sample reads 0 the engine stays in its gate, polling, and nothing else changes, however long. -/
def Obligations.UnreadyDeviceHoldsTheGate : Prop :=
  ∀ (s : State) (k : Nat) (ls : List Bool),
    s.phase = .gate0 ∨ s.phase = .gate1 ∨ s.phase = .gate2 → s.turns = [] →
    s.levels = List.replicate k false ++ ls →
    Host.Core.run core k s = .next
      { s with levels := ls, wire := s.wire ++ List.replicate k (.poll false) }

/-- R140, R143, R132: a WRW command from its issue to the host's next turn. The device holds the two gates back `z0` and
`z1` samples and presents the bytes `ins`. The run takes `2 CNT + 6 + z` steps of the engine, appends exactly the W
frame to the wire history, and leaves exactly the state R140 describes. The host's turns, and that a wait is one of them and
records no read of `STATUS`, are the model's choice (DESIGN CHOICE, log entries 1 and 19). -/
def Obligations.WordWriteSendsItsFrame : Prop :=
  ∀ (s : State) (pre : Word) (z0 z1 : Nat) (ins bs : List Byte) (ls : List Bool) (ts : List Turn),
    s.phase = .idle → s.life = .up → s.wlen ≤ s.params.wcap →
    s.turns = .host (.issue (wrwDescriptor pre s.wlen)) :: .wait :: ts →
    s.levels = gateLevels z0 ++ gateLevels z1 ++ ls →
    s.bytes = ins ++ bs → ins.length = 2 + 2 * s.wlen.toNat →
    Host.Core.run core (1 + (2 * s.wlen.toNat + 6 + (z0 + z1)) + 1) s = .next
      { s with
        csn := .high
        op := .wrw
        pre := pre
        cnt := s.wlen
        idx := s.wlen
        done := true
        err := .none
        wire := s.wire ++ writeFrame z0 z1 pre (wordBytes (wordsToSend s s.wlen.toNat)) ins
        levels := ls
        bytes := bs
        turns := ts }

/-- R141, R143, R132: an RDW command of count `n`, likewise: `2 CNT + 9 + z` steps of the engine, the R frame, the received
words in `RXW` in order, `RLEN = CNT` (the turns and the wait: DESIGN CHOICE, log entries 1 and 19). -/
def Obligations.WordReadStoresWhatItReceives : Prop :=
  ∀ (s : State) (pre : Word) (n : Count) (z0 z1 z2 : Nat) (ins bs : List Byte) (ls : List Bool)
    (ts : List Turn),
    s.phase = .idle → s.life = .up → n ≤ s.params.rcap →
    s.turns = .host (.issue (rdwDescriptor pre n)) :: .wait :: ts →
    s.levels = gateLevels z0 ++ gateLevels z1 ++ gateLevels z2 ++ ls →
    s.bytes = ins ++ bs → ins.length = 4 + 2 * n.toNat →
    ∃ t, Host.Core.run core (1 + (2 * n.toNat + 9 + (z0 + z1 + z2)) + 1) s = .next t ∧
      t = { s with
        csn := .high
        op := .rdw
        pre := pre
        cnt := n
        idx := n
        rxh := lastFirst s.rxh (ins.drop 4)
        done := true
        err := .none
        rlen := n
        rxw := storeWords s.rxw 0 (receivedWords (ins.drop 4))
        wire := s.wire ++ readFrame z0 z1 z2 pre n.toNat ins
        levels := ls
        bytes := bs
        turns := ts } ∧
      (∀ i, i < n.toNat → ∀ a b, ins[4 + 2 * i]? = some a → ins[5 + 2 * i]? = some b →
        readRXW t i = (a.setWidth 16 <<< 8) ||| b.setWidth 16) ∧
      (∀ i, n.toNat ≤ i → readRXW t i = readRXW s i)

/-- R142, R143, R132, R133: a WPP command, likewise: a whole frame of its own for each pair, the second pixel first, `4 CNT + z`
steps of the engine in all; `zs` gives the two gates of each frame (the turns and the wait: DESIGN CHOICE, log
entries 1 and 19). -/
def Obligations.PixelWriteSendsOneFrameAPair : Prop :=
  ∀ (s : State) (zs : List (Nat × Nat)) (ins bs : List Byte) (ls : List Bool) (ts : List Turn),
    s.phase = .idle → s.life = .up → s.plen ≤ s.params.pcap → s.plen.toNat = 2 * zs.length →
    s.turns = .host (.issue (wppDescriptor s.plen)) :: .wait :: ts →
    s.levels = pixelLevels zs ++ ls →
    s.bytes = ins ++ bs → ins.length = 4 * zs.length →
    Host.Core.run core (1 + (4 * s.plen.toNat + pixelZeros zs) + 1) s = .next
      { s with
        csn := if s.plen = 0#32 then s.csn else .high
        op := .wpp
        pre := 0#16
        cnt := s.plen
        idx := s.plen
        done := true
        err := .none
        wire := s.wire ++ pixelFrames (readTXP s) 0 zs ins
        levels := ls
        bytes := bs
        turns := ts }

/-- R146: the round trip. A WRW command followed by an RDW command of the same count, the device returning in the data
phase of the read the bytes it was sent in the data phase of the write, leaves in `RXW` the words of `TXW`. -/
def Obligations.WrittenWordsReadBack : Prop :=
  ∀ (s : State) (pre pre' : Word) (z0 z1 z2 z3 z4 : Nat) (ins ins' bs : List Byte) (ls : List Bool)
    (ts : List Turn),
    s.phase = .idle → s.life = .up → s.wlen ≤ s.params.wcap → s.wlen ≤ s.params.rcap →
    s.turns = .host (.issue (wrwDescriptor pre s.wlen)) :: .wait
      :: .host (.issue (rdwDescriptor pre' s.wlen)) :: .wait :: ts →
    s.levels = gateLevels z0 ++ gateLevels z1 ++ (gateLevels z2 ++ gateLevels z3 ++ gateLevels z4 ++ ls) →
    s.bytes = ins ++ (ins' ++ wordBytes (wordsToSend s s.wlen.toNat) ++ bs) →
    ins.length = 2 + 2 * s.wlen.toNat → ins'.length = 4 →
    ∃ k t, Host.Core.run core k s = .next t ∧ t.phase = .idle ∧ t.done = true ∧ t.turns = ts ∧
      t.rlen = s.wlen ∧ ∀ i, i < s.wlen.toNat → readRXW t i = readTXW s i
end

