-- ==== Sys2Proof/Laws/Encoding.lean ====
section
/-! SUPPORT. The fields of a descriptor and of a micro-operation word built from fields. -/

namespace Sys2Proof

@[simp] theorem fieldOp_descriptor (op : BitVec 2) (rsv : BitVec 14) (pre : Word) (cnt : Count) :
    fieldOp (descriptor op rsv pre cnt) = op := by
  ext i hi; simp [fieldOp, descriptor]; grind

@[simp] theorem fieldRsv_descriptor (op : BitVec 2) (rsv : BitVec 14) (pre : Word) (cnt : Count) :
    fieldRsv (descriptor op rsv pre cnt) = rsv := by
  ext i hi; simp [fieldRsv, descriptor]; grind

@[simp] theorem fieldPre_descriptor (op : BitVec 2) (rsv : BitVec 14) (pre : Word) (cnt : Count) :
    fieldPre (descriptor op rsv pre cnt) = pre := by
  ext i hi; simp [fieldPre, descriptor]; grind

@[simp] theorem fieldCnt_descriptor (op : BitVec 2) (rsv : BitVec 14) (pre : Word) (cnt : Count) :
    fieldCnt (descriptor op rsv pre cnt) = cnt := by
  ext i hi; simp [fieldCnt, descriptor]; grind

@[simp] theorem uopCode_uopWord (c : BitVec 2) (b : Byte) : uopCode (uopWord c b) = c := by
  ext i hi; simp [uopCode, uopWord]; grind

@[simp] theorem uopByte_uopWord (c : BitVec 2) (b : Byte) : uopByte (uopWord c b) = b := by
  ext i hi; simp [uopByte, uopWord]; grind

end Sys2Proof
end

