-- ==== Sys2Proof/Laws/Memory.lean ====
section
/-! SUPPORT. The laws of a buffer: a read after a write, and that a write keeps the canonical form. -/

namespace Sys2Proof.Machine

variable {w : Nat}

theorem lookup_writeCell_same (m : Memory w) (i : Nat) (v : BitVec w) :
    (writeCell m i v).lookup i = some v := by
  induction m with
  | nil => simp [writeCell]
  | cons p m ih =>
    obtain ⟨j, u⟩ := p
    rcases lt_trichotomy i j with h | h | h
    · simp [writeCell, h]
    · simp [writeCell, h]
    · have h1 : ¬ i < j := by omega
      have h2 : ¬ i = j := by omega
      have h3 : (i == j) = false := by simpa using h2
      simp [writeCell, h1, h2, List.lookup, ih, h3]

theorem lookup_writeCell_other (m : Memory w) {i k : Nat} (h : k ≠ i) (v : BitVec w) :
    (writeCell m i v).lookup k = m.lookup k := by
  have hk : (k == i) = false := by simpa using h
  induction m with
  | nil => simp [writeCell, List.lookup, hk]
  | cons p m ih =>
    obtain ⟨j, u⟩ := p
    rcases lt_trichotomy i j with g | g | g
    · simp [writeCell, g, List.lookup, hk]
    · subst g; simp [writeCell, List.lookup, hk]
    · have h1 : ¬ i < j := by omega
      have h2 : ¬ i = j := by omega
      simp only [writeCell, h1, h2, if_false, List.lookup]
      split <;> simp_all

/-- A read after a write of the same cell gives the value written. -/
@[simp] theorem readCell_writeCell_same (m : Memory w) (f : Nat → BitVec w) (i : Nat) (v : BitVec w) :
    readCell (writeCell m i v) f i = v := by
  simp [readCell, lookup_writeCell_same]

/-- A write leaves every other cell alone. -/
theorem readCell_writeCell_other (m : Memory w) (f : Nat → BitVec w) {i k : Nat} (h : k ≠ i) (v : BitVec w) :
    readCell (writeCell m i v) f k = readCell m f k := by
  simp [readCell, lookup_writeCell_other m h]

theorem mem_writeCell_index {m : Memory w} {i k : Nat} {v : BitVec w}
    (h : k ∈ (writeCell m i v).map Prod.fst) : k = i ∨ k ∈ m.map Prod.fst := by
  induction m with
  | nil => simpa [writeCell] using h
  | cons p m ih =>
    obtain ⟨j, u⟩ := p
    unfold writeCell at h
    split at h
    · simpa using h
    · split at h <;> simp only [List.map_cons, List.mem_cons] at h ⊢ <;> grind

/-- A write inside the capacity keeps the canonical form. -/
theorem writeCell_wf {m : Memory w} {cap i : Nat} (h : Memory.wf cap m) (hi : i < cap) (v : BitVec w) :
    Memory.wf cap (writeCell m i v) := by
  refine ⟨?_, fun k hk => (mem_writeCell_index hk).elim (fun e => e ▸ hi) (h.2 k)⟩
  have hs := h.1
  clear h hi
  induction m with
  | nil => simp [writeCell]
  | cons p m ih =>
    obtain ⟨j, u⟩ := p
    simp only [List.map_cons, List.pairwise_cons] at hs
    unfold writeCell
    split
    · rename_i g
      simp only [List.map_cons, List.pairwise_cons, List.mem_cons]
      exact ⟨fun k hk => hk.elim (fun e => e ▸ g) (fun hk => lt_trans g (hs.1 k hk)), hs⟩
    · split
      · rename_i g
        subst g
        simpa using hs
      · simp only [List.map_cons, List.pairwise_cons]
        refine ⟨fun k hk => ?_, ih hs.2⟩
        rcases mem_writeCell_index hk with e | hk
        · omega
        · exact hs.1 k hk

/-- The empty buffer, the one after reset, is in canonical form. -/
theorem Memory.wf_nil (cap : Nat) : Memory.wf cap ([] : Memory w) := by simp [Memory.wf]

end Sys2Proof.Machine
end

