-- ==== Sys2Proof/Laws/State.lean ====
section
/-! SUPPORT. The fields of the shared updates of State, one lemma a field, each true by rfl, so that no proof unfolds a
record update. -/

namespace Sys2Proof.Machine

@[simp] theorem sampled_params (s : State) : (sampled s).params = s.params := rfl
@[simp] theorem sampled_csn (s : State) : (sampled s).csn = s.csn := rfl
@[simp] theorem sampled_life (s : State) : (sampled s).life = s.life := rfl
@[simp] theorem sampled_phase (s : State) : (sampled s).phase = s.phase := rfl
@[simp] theorem sampled_op (s : State) : (sampled s).op = s.op := rfl
@[simp] theorem sampled_pre (s : State) : (sampled s).pre = s.pre := rfl
@[simp] theorem sampled_cnt (s : State) : (sampled s).cnt = s.cnt := rfl
@[simp] theorem sampled_idx (s : State) : (sampled s).idx = s.idx := rfl
@[simp] theorem sampled_rxh (s : State) : (sampled s).rxh = s.rxh := rfl
@[simp] theorem sampled_done (s : State) : (sampled s).done = s.done := rfl
@[simp] theorem sampled_err (s : State) : (sampled s).err = s.err := rfl
@[simp] theorem sampled_wlen (s : State) : (sampled s).wlen = s.wlen := rfl
@[simp] theorem sampled_plen (s : State) : (sampled s).plen = s.plen := rfl
@[simp] theorem sampled_rlen (s : State) : (sampled s).rlen = s.rlen := rfl
@[simp] theorem sampled_txw (s : State) : (sampled s).txw = s.txw := rfl
@[simp] theorem sampled_txp (s : State) : (sampled s).txp = s.txp := rfl
@[simp] theorem sampled_rxw (s : State) : (sampled s).rxw = s.rxw := rfl
@[simp] theorem sampled_wire (s : State) : (sampled s).wire = s.wire ++ [.poll (rdyLevel s)] := rfl
@[simp] theorem sampled_replies (s : State) : (sampled s).replies = s.replies := rfl
@[simp] theorem sampled_levels (s : State) : (sampled s).levels = s.levels.tail := rfl
@[simp] theorem sampled_bytes (s : State) : (sampled s).bytes = s.bytes := rfl
@[simp] theorem sampled_turns (s : State) : (sampled s).turns = s.turns := rfl
@[simp] theorem sampled_rdyDraws (s : State) : (sampled s).rdyDraws = if s.levels.isEmpty then s.rdyDraws + 1 else s.rdyDraws := rfl
@[simp] theorem sampled_sdiDraws (s : State) : (sampled s).sdiDraws = s.sdiDraws := rfl
@[simp] theorem sampled_resets (s : State) : (sampled s).resets = s.resets := rfl

@[simp] theorem exchanged_params (out : Byte) (s : State) : (exchanged out s).params = s.params := rfl
@[simp] theorem exchanged_csn (out : Byte) (s : State) : (exchanged out s).csn = s.csn := rfl
@[simp] theorem exchanged_life (out : Byte) (s : State) : (exchanged out s).life = s.life := rfl
@[simp] theorem exchanged_phase (out : Byte) (s : State) : (exchanged out s).phase = s.phase := rfl
@[simp] theorem exchanged_op (out : Byte) (s : State) : (exchanged out s).op = s.op := rfl
@[simp] theorem exchanged_pre (out : Byte) (s : State) : (exchanged out s).pre = s.pre := rfl
@[simp] theorem exchanged_cnt (out : Byte) (s : State) : (exchanged out s).cnt = s.cnt := rfl
@[simp] theorem exchanged_idx (out : Byte) (s : State) : (exchanged out s).idx = s.idx := rfl
@[simp] theorem exchanged_rxh (out : Byte) (s : State) : (exchanged out s).rxh = s.rxh := rfl
@[simp] theorem exchanged_done (out : Byte) (s : State) : (exchanged out s).done = s.done := rfl
@[simp] theorem exchanged_err (out : Byte) (s : State) : (exchanged out s).err = s.err := rfl
@[simp] theorem exchanged_wlen (out : Byte) (s : State) : (exchanged out s).wlen = s.wlen := rfl
@[simp] theorem exchanged_plen (out : Byte) (s : State) : (exchanged out s).plen = s.plen := rfl
@[simp] theorem exchanged_rlen (out : Byte) (s : State) : (exchanged out s).rlen = s.rlen := rfl
@[simp] theorem exchanged_txw (out : Byte) (s : State) : (exchanged out s).txw = s.txw := rfl
@[simp] theorem exchanged_txp (out : Byte) (s : State) : (exchanged out s).txp = s.txp := rfl
@[simp] theorem exchanged_rxw (out : Byte) (s : State) : (exchanged out s).rxw = s.rxw := rfl
@[simp] theorem exchanged_wire (out : Byte) (s : State) : (exchanged out s).wire = s.wire ++ [.xchg out (receivedByte s)] := rfl
@[simp] theorem exchanged_replies (out : Byte) (s : State) : (exchanged out s).replies = s.replies := rfl
@[simp] theorem exchanged_levels (out : Byte) (s : State) : (exchanged out s).levels = s.levels := rfl
@[simp] theorem exchanged_bytes (out : Byte) (s : State) : (exchanged out s).bytes = s.bytes.tail := rfl
@[simp] theorem exchanged_turns (out : Byte) (s : State) : (exchanged out s).turns = s.turns := rfl
@[simp] theorem exchanged_rdyDraws (out : Byte) (s : State) : (exchanged out s).rdyDraws = s.rdyDraws := rfl
@[simp] theorem exchanged_sdiDraws (out : Byte) (s : State) : (exchanged out s).sdiDraws = if s.bytes.isEmpty then s.sdiDraws + 1 else s.sdiDraws := rfl
@[simp] theorem exchanged_resets (out : Byte) (s : State) : (exchanged out s).resets = s.resets := rfl

@[simp] theorem reject_params (e : Err) (s : State) : (reject e s).params = s.params := rfl
@[simp] theorem reject_csn (e : Err) (s : State) : (reject e s).csn = s.csn := rfl
@[simp] theorem reject_life (e : Err) (s : State) : (reject e s).life = s.life := rfl
@[simp] theorem reject_phase (e : Err) (s : State) : (reject e s).phase = s.phase := rfl
@[simp] theorem reject_op (e : Err) (s : State) : (reject e s).op = s.op := rfl
@[simp] theorem reject_pre (e : Err) (s : State) : (reject e s).pre = s.pre := rfl
@[simp] theorem reject_cnt (e : Err) (s : State) : (reject e s).cnt = s.cnt := rfl
@[simp] theorem reject_idx (e : Err) (s : State) : (reject e s).idx = s.idx := rfl
@[simp] theorem reject_rxh (e : Err) (s : State) : (reject e s).rxh = s.rxh := rfl
@[simp] theorem reject_done (e : Err) (s : State) : (reject e s).done = false := rfl
@[simp] theorem reject_err (e : Err) (s : State) : (reject e s).err = e := rfl
@[simp] theorem reject_wlen (e : Err) (s : State) : (reject e s).wlen = s.wlen := rfl
@[simp] theorem reject_plen (e : Err) (s : State) : (reject e s).plen = s.plen := rfl
@[simp] theorem reject_rlen (e : Err) (s : State) : (reject e s).rlen = s.rlen := rfl
@[simp] theorem reject_txw (e : Err) (s : State) : (reject e s).txw = s.txw := rfl
@[simp] theorem reject_txp (e : Err) (s : State) : (reject e s).txp = s.txp := rfl
@[simp] theorem reject_rxw (e : Err) (s : State) : (reject e s).rxw = s.rxw := rfl
@[simp] theorem reject_wire (e : Err) (s : State) : (reject e s).wire = s.wire := rfl
@[simp] theorem reject_replies (e : Err) (s : State) : (reject e s).replies = s.replies := rfl
@[simp] theorem reject_levels (e : Err) (s : State) : (reject e s).levels = s.levels := rfl
@[simp] theorem reject_bytes (e : Err) (s : State) : (reject e s).bytes = s.bytes := rfl
@[simp] theorem reject_turns (e : Err) (s : State) : (reject e s).turns = s.turns := rfl
@[simp] theorem reject_rdyDraws (e : Err) (s : State) : (reject e s).rdyDraws = s.rdyDraws := rfl
@[simp] theorem reject_sdiDraws (e : Err) (s : State) : (reject e s).sdiDraws = s.sdiDraws := rfl
@[simp] theorem reject_resets (e : Err) (s : State) : (reject e s).resets = s.resets := rfl

@[simp] theorem accept_params (o : Op) (p : Word) (n : Count) (s : State) : (accept o p n s).params = s.params := rfl
@[simp] theorem accept_csn (o : Op) (p : Word) (n : Count) (s : State) : (accept o p n s).csn = s.csn := rfl
@[simp] theorem accept_life (o : Op) (p : Word) (n : Count) (s : State) : (accept o p n s).life = s.life := rfl
@[simp] theorem accept_phase (o : Op) (p : Word) (n : Count) (s : State) : (accept o p n s).phase = if o = .wpp ∧ n = 0#32 then .idle else .gate0 := rfl
@[simp] theorem accept_op (o : Op) (p : Word) (n : Count) (s : State) : (accept o p n s).op = o := rfl
@[simp] theorem accept_pre (o : Op) (p : Word) (n : Count) (s : State) : (accept o p n s).pre = p := rfl
@[simp] theorem accept_cnt (o : Op) (p : Word) (n : Count) (s : State) : (accept o p n s).cnt = n := rfl
@[simp] theorem accept_idx (o : Op) (p : Word) (n : Count) (s : State) : (accept o p n s).idx = 0#32 := rfl
@[simp] theorem accept_rxh (o : Op) (p : Word) (n : Count) (s : State) : (accept o p n s).rxh = s.rxh := rfl
@[simp] theorem accept_done (o : Op) (p : Word) (n : Count) (s : State) : (accept o p n s).done = decide (o = .wpp ∧ n = 0#32) := rfl
@[simp] theorem accept_err (o : Op) (p : Word) (n : Count) (s : State) : (accept o p n s).err = .none := rfl
@[simp] theorem accept_wlen (o : Op) (p : Word) (n : Count) (s : State) : (accept o p n s).wlen = s.wlen := rfl
@[simp] theorem accept_plen (o : Op) (p : Word) (n : Count) (s : State) : (accept o p n s).plen = s.plen := rfl
@[simp] theorem accept_rlen (o : Op) (p : Word) (n : Count) (s : State) : (accept o p n s).rlen = s.rlen := rfl
@[simp] theorem accept_txw (o : Op) (p : Word) (n : Count) (s : State) : (accept o p n s).txw = s.txw := rfl
@[simp] theorem accept_txp (o : Op) (p : Word) (n : Count) (s : State) : (accept o p n s).txp = s.txp := rfl
@[simp] theorem accept_rxw (o : Op) (p : Word) (n : Count) (s : State) : (accept o p n s).rxw = s.rxw := rfl
@[simp] theorem accept_wire (o : Op) (p : Word) (n : Count) (s : State) : (accept o p n s).wire = s.wire := rfl
@[simp] theorem accept_replies (o : Op) (p : Word) (n : Count) (s : State) : (accept o p n s).replies = s.replies := rfl
@[simp] theorem accept_levels (o : Op) (p : Word) (n : Count) (s : State) : (accept o p n s).levels = s.levels := rfl
@[simp] theorem accept_bytes (o : Op) (p : Word) (n : Count) (s : State) : (accept o p n s).bytes = s.bytes := rfl
@[simp] theorem accept_turns (o : Op) (p : Word) (n : Count) (s : State) : (accept o p n s).turns = s.turns := rfl
@[simp] theorem accept_rdyDraws (o : Op) (p : Word) (n : Count) (s : State) : (accept o p n s).rdyDraws = s.rdyDraws := rfl
@[simp] theorem accept_sdiDraws (o : Op) (p : Word) (n : Count) (s : State) : (accept o p n s).sdiDraws = s.sdiDraws := rfl
@[simp] theorem accept_resets (o : Op) (p : Word) (n : Count) (s : State) : (accept o p n s).resets = s.resets := rfl

@[simp] theorem replied_params (r : Reply) (s : State) : (replied r s).params = s.params := rfl
@[simp] theorem replied_csn (r : Reply) (s : State) : (replied r s).csn = s.csn := rfl
@[simp] theorem replied_life (r : Reply) (s : State) : (replied r s).life = s.life := rfl
@[simp] theorem replied_phase (r : Reply) (s : State) : (replied r s).phase = s.phase := rfl
@[simp] theorem replied_op (r : Reply) (s : State) : (replied r s).op = s.op := rfl
@[simp] theorem replied_pre (r : Reply) (s : State) : (replied r s).pre = s.pre := rfl
@[simp] theorem replied_cnt (r : Reply) (s : State) : (replied r s).cnt = s.cnt := rfl
@[simp] theorem replied_idx (r : Reply) (s : State) : (replied r s).idx = s.idx := rfl
@[simp] theorem replied_rxh (r : Reply) (s : State) : (replied r s).rxh = s.rxh := rfl
@[simp] theorem replied_done (r : Reply) (s : State) : (replied r s).done = s.done := rfl
@[simp] theorem replied_err (r : Reply) (s : State) : (replied r s).err = s.err := rfl
@[simp] theorem replied_wlen (r : Reply) (s : State) : (replied r s).wlen = s.wlen := rfl
@[simp] theorem replied_plen (r : Reply) (s : State) : (replied r s).plen = s.plen := rfl
@[simp] theorem replied_rlen (r : Reply) (s : State) : (replied r s).rlen = s.rlen := rfl
@[simp] theorem replied_txw (r : Reply) (s : State) : (replied r s).txw = s.txw := rfl
@[simp] theorem replied_txp (r : Reply) (s : State) : (replied r s).txp = s.txp := rfl
@[simp] theorem replied_rxw (r : Reply) (s : State) : (replied r s).rxw = s.rxw := rfl
@[simp] theorem replied_wire (r : Reply) (s : State) : (replied r s).wire = s.wire := rfl
@[simp] theorem replied_replies (r : Reply) (s : State) : (replied r s).replies = s.replies ++ [r] := rfl
@[simp] theorem replied_levels (r : Reply) (s : State) : (replied r s).levels = s.levels := rfl
@[simp] theorem replied_bytes (r : Reply) (s : State) : (replied r s).bytes = s.bytes := rfl
@[simp] theorem replied_turns (r : Reply) (s : State) : (replied r s).turns = s.turns := rfl
@[simp] theorem replied_rdyDraws (r : Reply) (s : State) : (replied r s).rdyDraws = s.rdyDraws := rfl
@[simp] theorem replied_sdiDraws (r : Reply) (s : State) : (replied r s).sdiDraws = s.sdiDraws := rfl
@[simp] theorem replied_resets (r : Reply) (s : State) : (replied r s).resets = s.resets := rfl

@[simp] theorem resetEvent_params (s : State) : (resetEvent s).params = s.params := rfl
@[simp] theorem resetEvent_csn (s : State) : (resetEvent s).csn = .z := rfl
@[simp] theorem resetEvent_life (s : State) : (resetEvent s).life = .down := rfl
@[simp] theorem resetEvent_phase (s : State) : (resetEvent s).phase = .idle := rfl
@[simp] theorem resetEvent_op (s : State) : (resetEvent s).op = Config.resetOp (s.resets + 1) := rfl
@[simp] theorem resetEvent_pre (s : State) : (resetEvent s).pre = Config.resetPre (s.resets + 1) := rfl
@[simp] theorem resetEvent_cnt (s : State) : (resetEvent s).cnt = Config.resetCnt (s.resets + 1) := rfl
@[simp] theorem resetEvent_idx (s : State) : (resetEvent s).idx = Config.resetIdx (s.resets + 1) := rfl
@[simp] theorem resetEvent_rxh (s : State) : (resetEvent s).rxh = Config.resetRxh (s.resets + 1) := rfl
@[simp] theorem resetEvent_done (s : State) : (resetEvent s).done = false := rfl
@[simp] theorem resetEvent_err (s : State) : (resetEvent s).err = .none := rfl
@[simp] theorem resetEvent_wlen (s : State) : (resetEvent s).wlen = 0#32 := rfl
@[simp] theorem resetEvent_plen (s : State) : (resetEvent s).plen = 0#32 := rfl
@[simp] theorem resetEvent_rlen (s : State) : (resetEvent s).rlen = 0#32 := rfl
@[simp] theorem resetEvent_txw (s : State) : (resetEvent s).txw = [] := rfl
@[simp] theorem resetEvent_txp (s : State) : (resetEvent s).txp = [] := rfl
@[simp] theorem resetEvent_rxw (s : State) : (resetEvent s).rxw = [] := rfl
@[simp] theorem resetEvent_wire (s : State) : (resetEvent s).wire = s.wire := rfl
@[simp] theorem resetEvent_replies (s : State) : (resetEvent s).replies = s.replies := rfl
@[simp] theorem resetEvent_levels (s : State) : (resetEvent s).levels = s.levels := rfl
@[simp] theorem resetEvent_bytes (s : State) : (resetEvent s).bytes = s.bytes := rfl
@[simp] theorem resetEvent_turns (s : State) : (resetEvent s).turns = s.turns := rfl
@[simp] theorem resetEvent_rdyDraws (s : State) : (resetEvent s).rdyDraws = s.rdyDraws := rfl
@[simp] theorem resetEvent_sdiDraws (s : State) : (resetEvent s).sdiDraws = s.sdiDraws := rfl
@[simp] theorem resetEvent_resets (s : State) : (resetEvent s).resets = s.resets + 1 := rfl

end Sys2Proof.Machine
end

