-- ==== Sys2Proof/Laws/Ops.lean ====
section
/-! SUPPORT. What each shared operation can do: the bits of an exchange, and for every meaning and every operation the
cases in which it answers a next state. A proof cites these and unfolds nothing. -/

namespace Sys2Proof.Machine

/-- The byte assembled from the bits of a byte, most significant first, is that byte (R102). -/
@[simp] theorem byteOfLine_lineBits (b : Byte) : byteOfLine (lineBits b) = b := by
  revert b; decide

/-- At the level of bytes the engine receives what the device presents (R100). -/
@[simp] theorem receivedByte_eq (s : State) : receivedByte s = sdiByte s := byteOfLine_lineBits _

/-- An issue answers a next state only at rest: the acceptance, or the rejection with the first cause. -/
theorem issue_next {op : Op} {pre : Word} {cnt : Count} {s t : State} (h : issue op pre cnt s = .next t) :
    s.phase = .idle ∧
      ((issueError op cnt s = .none ∧ t = accept op pre cnt s) ∨
        (issueError op cnt s ≠ .none ∧ t = reject (issueError op cnt s) s)) := by
  unfold issue at h
  split at h
  · refine ⟨‹_›, ?_⟩
    cases h
    by_cases g : issueError op cnt s = .none
    · exact .inl ⟨g, if_pos g⟩
    · exact .inr ⟨g, if_neg g⟩
  · cases h

theorem issueIllegal_next {s t : State} (h : issueIllegal s = .next t) :
    s.phase = .idle ∧ t = reject (illegalError s) s := by
  unfold issueIllegal at h
  split at h <;> cases h
  exact ⟨‹_›, rfl⟩

/-- WAITRDY answers a next state only in a gate: one poll, and the exit if it read 1. -/
theorem execWaitrdy_next {s t : State} (h : execWaitrdy s = .next t) :
    ∃ exit, gateExit s = some exit ∧
      t = { sampled s with phase := if rdyLevel s then exit else s.phase } := by
  unfold execWaitrdy at h
  split at h <;> cases h
  exact ⟨_, ‹_›, rfl⟩

theorem execCslow_next {s t : State} (h : execCslow s = .next t) :
    s.phase = .sel ∧ t = { s with csn := .low, phase := .preHi, wire := s.wire ++ [.csLow] } := by
  unfold execCslow at h
  split at h <;> cases h
  exact ⟨‹_›, rfl⟩

theorem execCshigh_next {s t : State} (h : execCshigh s = .next t) :
    s.phase = .desel ∧
      t = { s with
        csn := .high
        phase := if commandEnds s then .idle else .gate0
        done := s.done || commandEnds s
        rlen := if s.op = .rdw then s.cnt else s.rlen
        wire := s.wire ++ [.csHigh] } := by
  unfold execCshigh at h
  split at h <;> cases h
  exact ⟨‹_›, rfl⟩

/-- XCHG answers a next state only in the six phases that exchange a byte. -/
theorem execXchg_next {out : Byte} {s t : State} (h : execXchg out s = .next t) :
    (s.phase = .preHi ∧ t = { exchanged out s with phase := .preLo }) ∨
    (s.phase = .preLo ∧ t = { exchanged out s with phase := .gate1 }) ∨
    (s.phase = .dmyA ∧ t = { exchanged out s with phase := .dmyB }) ∨
    (s.phase = .dmyB ∧ t = { exchanged out s with phase := .gate2 }) ∨
    (s.phase = .datA ∧ t = dataFirst out s) ∨
    (s.phase = .datB ∧ ¬ (s.op = .rdw ∧ s.params.rcap ≤ s.idx) ∧ t = dataSecond out s) := by
  cases hp : s.phase <;> simp only [execXchg, hp] at h <;>
    first
    | (split at h <;> cases h
       simp_all)
    | (cases h; simp)
    | cases h

/-- The word the sequencer forms decodes to the instruction of the phase. -/
@[simp] theorem decodeUop10_gate : decodeUop10 (uopWord 0#2 0#8) = .ok .waitrdy := rfl
@[simp] theorem decodeUop10_low : decodeUop10 (uopWord 1#2 0#8) = .ok .cslow := rfl
@[simp] theorem decodeUop10_high : decodeUop10 (uopWord 2#2 0#8) = .ok .cshigh := rfl
@[simp] theorem decodeUop10_xchg (b : Byte) : decodeUop10 (uopWord 3#2 b) = .ok (.xchg b) := by
  simp [decodeUop10]

/-- A phase that exchanges a byte performs XCHG of the byte it fetched. -/
theorem engineTurn_xchg {s : State} {b : Byte} (h : fetch s = xchgWord b) :
    engineTurn s = execXchg b s := by
  simp [engineTurn, h, xchgWord, exec]

/-- A data byte whose index names no cell stops the engine. -/
theorem engineTurn_noCell {s : State} (h : fetch s = .noCell) : engineTurn s = .fault .noSuchCell := by
  simp [engineTurn, h]

/-- What the engine's step does in each phase; the data phases go through the byte they fetch. -/
theorem engineTurn_idle {s : State} (h : s.phase = .idle) : engineTurn s = .next s := by
  simp [engineTurn, fetch, h]

theorem engineTurn_gate {s : State} (h : s.phase = .gate0 ∨ s.phase = .gate1 ∨ s.phase = .gate2) :
    engineTurn s = execWaitrdy s := by
  rcases h with h | h | h <;> simp [engineTurn, fetch, h, exec]

theorem engineTurn_sel {s : State} (h : s.phase = .sel) : engineTurn s = execCslow s := by
  simp [engineTurn, fetch, h, exec]

theorem engineTurn_desel {s : State} (h : s.phase = .desel) : engineTurn s = execCshigh s := by
  simp [engineTurn, fetch, h, exec]

theorem engineTurn_preHi {s : State} (h : s.phase = .preHi) : engineTurn s = execXchg (hi s.pre) s := by
  simp [engineTurn, fetch, xchgWord, h, exec]

theorem engineTurn_preLo {s : State} (h : s.phase = .preLo) : engineTurn s = execXchg (lo s.pre) s := by
  simp [engineTurn, fetch, xchgWord, h, exec]

theorem engineTurn_dummy {s : State} (h : s.phase = .dmyA ∨ s.phase = .dmyB) :
    engineTurn s = execXchg 0#8 s := by
  rcases h with h | h <;> simp [engineTurn, fetch, xchgWord, h, exec]

/-- The byte that a data phase sends, by the operation and the half. -/
theorem engineTurn_datA {s : State} (h : s.phase = .datA) :
    engineTurn s =
      match s.op with
      | .wrw =>
        if s.idx < s.params.wcap then execXchg (hi (readTXW s s.idx.toNat)) s else .fault .noSuchCell
      | .rdw => execXchg 0#8 s
      | .wpp =>
        if s.idx + 1#32 < s.params.pcap then execXchg (readTXP s (s.idx + 1#32).toNat) s
        else .fault .noSuchCell := by
  cases ho : s.op <;> simp only
  · split
    · exact engineTurn_xchg (by simp only [fetch, fetchFirst, if_pos, *])
    · exact engineTurn_noCell (by simp only [fetch, fetchFirst, if_false, *])
  · exact engineTurn_xchg (by simp only [fetch, fetchFirst, h, ho])
  · split
    · exact engineTurn_xchg (by simp only [fetch, fetchFirst, if_pos, *])
    · exact engineTurn_noCell (by simp only [fetch, fetchFirst, if_false, *])

theorem engineTurn_datB {s : State} (h : s.phase = .datB) :
    engineTurn s =
      match s.op with
      | .wrw =>
        if s.idx < s.params.wcap then execXchg (lo (readTXW s s.idx.toNat)) s else .fault .noSuchCell
      | .rdw => execXchg 0#8 s
      | .wpp =>
        if s.idx < s.params.pcap then execXchg (readTXP s s.idx.toNat) s else .fault .noSuchCell := by
  cases ho : s.op <;> simp only
  · split
    · exact engineTurn_xchg (by simp only [fetch, fetchSecond, if_pos, *])
    · exact engineTurn_noCell (by simp only [fetch, fetchSecond, if_false, *])
  · exact engineTurn_xchg (by simp only [fetch, fetchSecond, h, ho])
  · split
    · exact engineTurn_xchg (by simp only [fetch, fetchSecond, if_pos, *])
    · exact engineTurn_noCell (by simp only [fetch, fetchSecond, if_false, *])

/-- Every step of the engine that answers a next state is rest, or one micro-operation in its phase. -/
theorem engineTurn_next {s t : State} (h : engineTurn s = .next t) :
    (s.phase = .idle ∧ t = s) ∨
    ((s.phase = .gate0 ∨ s.phase = .gate1 ∨ s.phase = .gate2) ∧ execWaitrdy s = .next t) ∨
    (s.phase = .sel ∧ execCslow s = .next t) ∨
    (s.phase = .desel ∧ execCshigh s = .next t) ∨
    ((s.phase = .preHi ∨ s.phase = .preLo ∨ s.phase = .dmyA ∨ s.phase = .dmyB
        ∨ s.phase = .datA ∨ s.phase = .datB) ∧ ∃ out, execXchg out s = .next t) := by
  cases hp : s.phase
  · rw [engineTurn_idle hp] at h; cases h; simp
  · rw [engineTurn_gate (.inl hp)] at h; simp [h]
  · rw [engineTurn_sel hp] at h; simp [h]
  · rw [engineTurn_preHi hp] at h; simp; exact ⟨_, h⟩
  · rw [engineTurn_preLo hp] at h; simp; exact ⟨_, h⟩
  · rw [engineTurn_gate (.inr (.inl hp))] at h; simp [h]
  · rw [engineTurn_dummy (.inl hp)] at h; simp; exact ⟨_, h⟩
  · rw [engineTurn_dummy (.inr hp)] at h; simp; exact ⟨_, h⟩
  · rw [engineTurn_gate (.inr (.inr hp))] at h; simp [h]
  · rw [engineTurn_datA hp] at h
    simp only [reduceCtorEq, or_false, or_true, true_and, false_and, false_or]
    cases ho : s.op <;> simp only [ho] at h
    · split at h
      · exact ⟨_, h⟩
      · cases h
    · exact ⟨_, h⟩
    · split at h
      · exact ⟨_, h⟩
      · cases h
  · rw [engineTurn_datB hp] at h
    simp only [reduceCtorEq, or_true, true_and, false_and, false_or]
    cases ho : s.op <;> simp only [ho] at h
    · split at h
      · exact ⟨_, h⟩
      · cases h
    · exact ⟨_, h⟩
    · split at h
      · exact ⟨_, h⟩
      · cases h
  · rw [engineTurn_desel hp] at h; simp [h]

end Sys2Proof.Machine
end

