-- ==== Sys2Proof/Laws/PerInstr.lean ====
section
/-! SUPPORT. The statements made of every instruction, one lemma a constructor. -/

namespace Sys2Proof.Laws.EncodesWellFormed

/-- The word of an instruction passes the check of the opcode map (R73) and of the micro-operation words (R79). -/
def Statement (i : Instr) : Prop := (encode i).wellFormed = true

theorem wrw (pre : Word) (cnt : Count) : Statement (.wrw pre cnt) := by
  have h : (descriptor 1#2 0#14 pre cnt) &&& 0xFFFF000000000000#64 = 0x4000000000000000#64 := by
    ext i hi
    simp only [descriptor, BitVec.getElem_and, BitVec.getElem_append]
    interval_cases i <;> simp
  simp [Statement, encode, Code.wellFormed, cmdWellFormed, opcodeMap, OpcodeRow.selects, h]

theorem rdw (pre : Word) (cnt : Count) : Statement (.rdw pre cnt) := by
  have h : (descriptor 2#2 0#14 pre cnt) &&& 0xFFFF000000000000#64 = 0x8000000000000000#64 := by
    ext i hi
    simp only [descriptor, BitVec.getElem_and, BitVec.getElem_append]
    interval_cases i <;> simp
  simp [Statement, encode, Code.wellFormed, cmdWellFormed, opcodeMap, OpcodeRow.selects, h]

theorem wpp (cnt : Count) : Statement (.wpp cnt) := by
  have h : (descriptor 3#2 0#14 0#16 cnt) &&& 0xFFFFFFFF00000000#64 = 0xC000000000000000#64 := by
    ext i hi
    simp only [descriptor, BitVec.getElem_and, BitVec.getElem_append]
    interval_cases i <;> simp
  simp [Statement, encode, Code.wellFormed, cmdWellFormed, opcodeMap, OpcodeRow.selects, h]

theorem waitrdy : Statement .waitrdy := by unfold Statement; decide

theorem cslow : Statement .cslow := by unfold Statement; decide

theorem cshigh : Statement .cshigh := by unfold Statement; decide

theorem xchg (out : Byte) : Statement (.xchg out) := by
  have h : (uopWord 3#2 out).extractLsb 9 8 = 3#2 := uopCode_uopWord 3#2 out
  simp [Statement, encode, Code.wellFormed, uopWellFormed, h]

end Sys2Proof.Laws.EncodesWellFormed
end

