-- ==== Sys2Proof/Laws/Step.lean ====
section
/-! SUPPORT. What a host turn and a step can do: the inversion lemmas from which every whole-machine rule follows. -/

namespace Sys2Proof.Machine

theorem guarded_next {g : Prop} [Decidable g] {s t : State} (h : guarded g s = .next t) : g ∧ t = s := by
  unfold guarded at h
  split at h <;> cases h
  exact ⟨‹_›, rfl⟩

/-- A descriptor decodes to a command or is illegal; no descriptor is a micro-operation. -/
theorem decodeCmd64_command {d : BitVec 64} {i : Instr} (h : decodeCmd64 d = .ok i) :
    i = .wrw (fieldPre d) (fieldCnt d) ∨ i = .rdw (fieldPre d) (fieldCnt d) ∨ i = .wpp (fieldCnt d) := by
  unfold decodeCmd64 at h
  repeat' split at h
  all_goals first | (cases h; simp) | cases h

/-- An issue of any descriptor that answers a next state: at rest, an acceptance or a rejection. -/
theorem issueWord_next {d : BitVec 64} {s t : State} (h : issueWord d s = .next t) :
    s.phase = .idle ∧
      ((∃ op pre cnt, (op = .wpp → pre = 0#16) ∧ issueError op cnt s = .none ∧ t = accept op pre cnt s) ∨
        (∃ e, e ≠ .none ∧ t = reject e s)) := by
  unfold issueWord at h
  split at h
  · rename_i i hd
    rcases decodeCmd64_command hd with rfl | rfl | rfl <;>
      simp only [exec, execWrw, execRdw, execWpp] at h <;>
      obtain ⟨h0, ⟨h1, rfl⟩ | ⟨h1, rfl⟩⟩ := issue_next h
    · exact ⟨h0, .inl ⟨_, _, _, by simp, h1, rfl⟩⟩
    · exact ⟨h0, .inr ⟨_, h1, rfl⟩⟩
    · exact ⟨h0, .inl ⟨_, _, _, by simp, h1, rfl⟩⟩
    · exact ⟨h0, .inr ⟨_, h1, rfl⟩⟩
    · exact ⟨h0, .inl ⟨_, _, _, by simp, h1, rfl⟩⟩
    · exact ⟨h0, .inr ⟨_, h1, rfl⟩⟩
  · obtain ⟨h0, rfl⟩ := issueIllegal_next h
    refine ⟨h0, .inr ⟨illegalError s, ?_, rfl⟩⟩
    unfold illegalError; split <;> simp

/-- A command that can be issued has its preconditions (R113): the bus is up and the count fits. -/
theorem issueError_none {op : Op} {cnt : Count} {s : State} (h : issueError op cnt s = .none) :
    s.life = .up ∧
      (op = .wrw → cnt = s.wlen) ∧ (op = .rdw → cnt ≤ s.params.rcap) ∧
      (op = .wpp → cnt.getLsbD 0 = false ∧ cnt = s.plen) := by
  unfold issueError at h
  by_cases hl : s.life = .up
  · simp only [hl, ne_eq, not_true_eq_false, if_false] at h
    refine ⟨hl, ?_, ?_, ?_⟩ <;> rintro rfl
    · simpa using h
    · simpa using h
    · by_cases hc : cnt.getLsbD 0 = true
      · rw [if_pos hc] at h; cases h
      · rw [if_neg hc] at h
        exact ⟨by simpa using hc, by simpa using h⟩
  · simp [hl] at h

/-- Every next state of a host turn. -/
theorem hostTurn_next {e : HostEvent} {s t : State} (h : hostTurn e s = .next t) :
    (∃ d, e = .issue d ∧ issueWord d s = .next t) ∨
    (∃ i v, e = .writeTXW i v ∧ (s.phase = .idle ∧ i < s.params.wcap.toNat) ∧
      t = { s with txw := writeCell s.txw i v }) ∨
    (∃ i v, e = .writeTXP i v ∧ (s.phase = .idle ∧ i < s.params.pcap.toNat) ∧
      t = { s with txp := writeCell s.txp i v }) ∨
    (∃ n, e = .writeWLEN n ∧ (s.phase = .idle ∧ n ≤ s.params.wcap) ∧ t = { s with wlen := n }) ∨
    (∃ n, e = .writePLEN n ∧ (s.phase = .idle ∧ n ≤ s.params.pcap) ∧ t = { s with plen := n }) ∨
    (∃ r, t = replied r s) ∨
    (∃ ok, e = .bringup ok ∧ s.life = .down ∧
      t = { broughtUp ok s with replies := s.replies ++ [.outcome ok] }) ∨
    (e = .teardown ∧ (s.life = .up ∧ s.phase = .idle) ∧ t = { s with life := .closed, csn := .z }) ∨
    (e = .reset ∧ t = resetEvent s) := by
  cases e <;> simp only [hostTurn, bringup, teardown] at h
  case issue d => exact .inl ⟨d, rfl, h⟩
  case writeTXW i v =>
    obtain ⟨g, rfl⟩ := guarded_next h
    exact .inr (.inl ⟨i, v, rfl, g, rfl⟩)
  case writeTXP i v =>
    obtain ⟨g, rfl⟩ := guarded_next h
    exact .inr (.inr (.inl ⟨i, v, rfl, g, rfl⟩))
  case writeWLEN n =>
    obtain ⟨g, rfl⟩ := guarded_next h
    exact .inr (.inr (.inr (.inl ⟨n, rfl, g, rfl⟩)))
  case writePLEN n =>
    obtain ⟨g, rfl⟩ := guarded_next h
    exact .inr (.inr (.inr (.inr (.inl ⟨n, rfl, g, rfl⟩))))
  case readTXW i =>
    obtain ⟨-, rfl⟩ := guarded_next h
    exact .inr (.inr (.inr (.inr (.inr (.inl ⟨_, rfl⟩)))))
  case readTXP i =>
    obtain ⟨-, rfl⟩ := guarded_next h
    exact .inr (.inr (.inr (.inr (.inr (.inl ⟨_, rfl⟩)))))
  case readRXW i =>
    obtain ⟨-, rfl⟩ := guarded_next h
    exact .inr (.inr (.inr (.inr (.inr (.inl ⟨_, rfl⟩)))))
  case readWLEN =>
    obtain ⟨-, rfl⟩ := guarded_next h
    exact .inr (.inr (.inr (.inr (.inr (.inl ⟨_, rfl⟩)))))
  case readPLEN =>
    obtain ⟨-, rfl⟩ := guarded_next h
    exact .inr (.inr (.inr (.inr (.inr (.inl ⟨_, rfl⟩)))))
  case readRLEN =>
    obtain ⟨-, rfl⟩ := guarded_next h
    exact .inr (.inr (.inr (.inr (.inr (.inl ⟨_, rfl⟩)))))
  case readSTATUS => cases h; exact .inr (.inr (.inr (.inr (.inr (.inl ⟨_, rfl⟩)))))
  case bringup ok =>
    split at h <;> cases h
    simp_all
  case teardown =>
    split at h <;> cases h
    simp_all
  case reset => cases h; simp

/-- Every next state of a step: the host's event or the engine's step, with its turn spent, or a `wait` that ends. -/
theorem step_next {s t : State} (h : step s = .next t) :
    (∃ e ts, s.turns = .host e :: ts ∧ hostTurn e { s with turns := ts } = .next t) ∨
    (∃ ts, engineTurn { s with turns := ts } = .next t) ∨
    (∃ ts, t = { s with turns := ts }) := by
  unfold step at h
  split at h
  · exact .inr (.inl ⟨s.turns, by simpa using h⟩)
  · exact .inr (.inl ⟨_, h⟩)
  · split at h
    · exact .inr (.inl ⟨s.turns, by simpa using h⟩)
    · cases h; exact .inr (.inr ⟨_, rfl⟩)
  · exact .inl ⟨_, _, ‹_›, h⟩

end Sys2Proof.Machine
end

