-- ==== Sys2Proof/Laws/Wire.lean ====
section
/-! SUPPORT. How a scan of the wire history goes on with one more event. -/

namespace Sys2Proof.Safety

open Sys2Proof.Machine

/-- The scan of a history and one more event is one more step of the scan. -/
@[simp] theorem scanWire_append_event (h : List WireEvent) (e : WireEvent) :
    scanWire (h ++ [e]) = scanEvent (scanWire h) e := by
  simp [scanWire]

/-- An event that does not move chip-select leaves the alternation and the open frame as they are. -/
theorem scanEvent_keeps_frames {e : WireEvent} (w : WireScan) (hl : e ≠ .csLow) (hh : e ≠ .csHigh) :
    (scanEvent w e).alternates = w.alternates ∧ (scanEvent w e).opened = w.opened := by
  cases e <;> simp_all [scanEvent]

end Sys2Proof.Safety
end

