-- ==== Sys2Proof/Tests/Slice0.lean ====
section
/-! SUPPORT. The model's own tests. Expected values are those of spec/95_test_vectors.md (the V numbers, P1 to P7) or are
read from the rule cited. Then, for each statement with hypotheses, a named state and operands that meet all of them. -/

namespace Sys2Proof.Tests

open Sys2Proof.Machine Sys2Proof.Safety

/-- After a reset, with the parameters of the vectors (`WCAP = PCAP = RCAP = 8`) and the registers and cells R41 leaves
unspecified at numbers of this file's choice. -/
def down : State where
  params := { wcap := 8#32, pcap := 8#32, rcap := 8#32, clkdiv := 1, syncStages := 2, pollInterval := 1 }
  csn := .z
  life := .down
  phase := .idle
  op := .wrw
  pre := 0#16
  cnt := 0#32
  idx := 0#32
  rxh := 0#8
  done := false
  err := .none
  wlen := 0#32
  plen := 0#32
  rlen := 0#32
  txw := []
  txp := []
  rxw := []
  wire := []
  replies := []
  levels := []
  bytes := []
  turns := []
  rdyDraws := 0
  sdiDraws := 0
  resets := 0

/-- UP-idle of spec/95_test_vectors.md. -/
def up : State := { down with life := .up, csn := .high }

/-- UP-idle with words in `TXW` and pixels in `TXP`. -/
def loaded : State :=
  { up with
    txw := [(0, 0x1234#16), (1, 0xABCD#16)], wlen := 2#32
    txp := [(0, 0x11#8), (1, 0x22#8), (2, 0x33#8), (3, 0x44#8)], plen := 4#32 }

/-- A command in phase `p`, outside its frame. -/
def before (p : Phase) (op : Op) (cnt idx : Count) : State :=
  { loaded with phase := p, op := op, cnt := cnt, idx := idx, levels := [true], bytes := [0x3C#8] }

/-- A command in phase `p`, inside its frame. -/
def within (p : Phase) (op : Op) (cnt idx : Count) : State :=
  { before p op cnt idx with csn := .low, wire := [.poll true, .csLow] }

/-- The next state, if there is one. -/
def after : Result → Option State
  | .next t => some t
  | _ => none

/-- What an outcome refuses with, if it refuses. -/
def refusal : Result → Option Refusal
  | .refused r => some r
  | _ => none

/-- What an outcome faults with, if it faults. -/
def stop : Result → Option Fault
  | .fault f => some f
  | _ => none

-- ==== ill-formed words ====

theorem test_smoke_reserved_op : cmdWellFormed 0x0000000000000000 = false := by decide
theorem test_smoke_reserved_field : cmdWellFormed 0x4001600000000002 = false := by decide
theorem test_smoke_wpp_preamble : cmdWellFormed 0xC000000100000002 = false := by decide
theorem test_smoke_micro_byte : uopWellFormed 0b0000000001#10 = false := by decide
theorem test_smoke_well_formed :
    (Code.cmd64 0x4000600000000002).wellFormed = true ∧ (Code.uop10 0b1110100101#10).wellFormed = true := by
  decide

-- ==== decoding: words from V10, V20, V30 and the rows of R79 ====

theorem test_decode_wrw : decodeTableWord 64 0x4000600000000002 = some (.wrw 0x6000#16 2#32) := by decide
theorem test_decode_rdw : decodeTableWord 64 0x8000100000000003 = some (.rdw 0x1000#16 3#32) := by decide
theorem test_decode_wpp : decodeTableWord 64 0xC000000000000004 = some (.wpp 4#32) := by decide
theorem test_decode_waitrdy : decodeTableWord 16 0b0000000000 = some .waitrdy := by decide
theorem test_decode_cslow : decodeTableWord 16 0b0100000000 = some .cslow := by decide
theorem test_decode_cshigh : decodeTableWord 16 0b1000000000 = some .cshigh := by decide
theorem test_decode_xchg : decodeTableWord 16 0b1110100101 = some (.xchg 0xA5#8) := by decide
theorem test_decode_high_bits : decodeTableWord 16 0b10000000000 = none ∧ decodeTableWord 32 0 = none := by decide

/-- V40, V42a: `OP = 0b00`. -/
theorem test_refuse_reserved_op :
    (match decodeCmd64 0x3FFFFFFFFFFFFFFF with | .error e => some e | .ok _ => none) = some .reservedOp := by decide
/-- V41: `RSV = 1`. -/
theorem test_refuse_reserved_field :
    (match decodeCmd64 0x4001600000000002 with | .error e => some e | .ok _ => none) = some .reservedField := by decide
/-- V42: WPP with `PRE = 1`. -/
theorem test_refuse_wpp_preamble :
    (match decodeCmd64 0xC000000100000002 with | .error e => some e | .ok _ => none) = some .wppPreamble := by decide
/-- R79: a word the sequencer never forms. -/
theorem test_refuse_micro_byte :
    (match decodeUop10 0b0100000001#10 with | .error e => some e | .ok _ => none) = some .microByte := by decide

-- ==== the micro-operations ====

/-- V1. -/
theorem test_waitrdy_passes :
    (after (exec .waitrdy (before .gate0 .wrw 2#32 0#32))).map (fun t => (t.phase, t.wire)) =
      some (.sel, [.poll true]) := by decide
/-- V3c: the last gate of a read of no words. -/
theorem test_waitrdy_empty_read :
    (after (exec .waitrdy (within .gate2 .rdw 0#32 0#32))).map (·.phase) = some .desel := by decide
/-- V4. -/
theorem test_xchg_preamble :
    (after (engineTurn { within .preHi .wrw 2#32 0#32 with pre := 0xA5C3#16 })).map (fun t => (t.phase, t.wire)) =
      some (.preLo, [.poll true, .csLow, .xchg 0xA5#8 0x3C#8]) := by decide
/-- V6a: the second byte of a word of RDW. -/
theorem test_xchg_stores :
    (after (exec (.xchg 0#8) { within .datB .rdw 1#32 0#32 with rxh := 0x80#8, bytes := [0x01#8] })).map
        (fun t => (t.rxw, t.idx, t.phase)) = some ([(0, 0x8001#16)], 1#32, .desel) := by decide
/-- V7. -/
theorem test_cslow : (after (exec .cslow (before .sel .wrw 2#32 0#32))).map (fun t => (t.csn, t.phase)) =
    some (.low, .preHi) := by decide
/-- V8a. -/
theorem test_cshigh_read : (after (exec .cshigh (within .desel .rdw 3#32 3#32))).map
    (fun t => (t.csn, t.phase, t.done, t.rlen)) = some (.high, .idle, true, 3#32) := by decide
/-- V8b. -/
theorem test_cshigh_another_pair : (after (exec .cshigh (within .desel .wpp 4#32 2#32))).map
    (fun t => (t.csn, t.phase, t.done)) = some (.high, .gate0, false) := by decide
/-- V6b, V6c: the second pixel of the pair goes first. -/
theorem test_pixel_order :
    (after (engineTurn (within .datA .wpp 4#32 2#32))).map (·.wire.getLast?) = some (some (.xchg 0x44#8 0x3C#8)) ∧
    (after (engineTurn (within .datB .wpp 4#32 2#32))).map (·.wire.getLast?) = some (some (.xchg 0x33#8 0x3C#8)) := by
  decide
/-- V4, the bits on the pins. -/
theorem test_bit_order :
    lineBits 0xA5#8 = [true, false, true, false, false, true, false, true] ∧
    byteOfLine [false, false, true, true, true, true, false, false] = 0x3C#8 := by decide

-- ==== the commands ====

/-- V10, its issue. -/
theorem test_wrw_accepted : (after (hostTurn (.issue 0x4000600000000002) loaded)).map
    (fun t => (t.phase, t.op, t.pre, t.cnt)) = some (.gate0, .wrw, 0x6000#16, 2#32) := by decide
/-- V45a. -/
theorem test_wrw_mismatch :
    (after (hostTurn (.issue 0x4000600000000001) loaded)).map status = some 0x31#32 := by decide
/-- V54. -/
theorem test_rdw_accepted :
    (after (hostTurn (.issue 0x8000100000000003) up)).map (fun t => (t.phase, t.err)) = some (.gate0, .none) := by decide
/-- V46. -/
theorem test_rdw_capacity : (after (hostTurn (.issue 0x8000100000000009) up)).map status = some 0x41#32 := by decide
/-- V32. -/
theorem test_wpp_empty : (after (hostTurn (.issue 0xC000000000000000) up)).map (fun t => (status t, t.wire)) =
    some (0x09#32, []) := by decide
/-- V52. -/
theorem test_wpp_odd : (after (hostTurn (.issue 0xC000000000000005) { up with plen := 2#32 })).map status =
    some 0x21#32 := by decide
/-- V51: an illegal descriptor that is also odd. -/
theorem test_priority : (after (hostTurn (.issue 0xC001000000000005) { up with plen := 2#32 })).map status =
    some 0x11#32 := by decide
/-- V50. -/
theorem test_not_up_first : (after (hostTurn (.issue 0) down)).map status = some 0x50#32 := by decide

-- ==== lifecycle ====

/-- V60, V61. -/
theorem test_bringup : (after (hostTurn (.bringup true) down)).map (fun t => (status t, t.csn)) = some (0x01#32, .high) ∧
    (after (hostTurn (.bringup false) down)).map (fun t => (status t, t.csn)) = some (0x60#32, .z) := by decide
/-- V63, V64. -/
theorem test_teardown :
    (after (hostTurn .teardown { up with done := true })).map (fun t => (status t, t.csn)) = some (0x0A#32, .z) ∧
    refusal (hostTurn .teardown { up with life := .closed }) = some .notAHostMove := by decide
/-- V66. -/
theorem test_busy :
    refusal (hostTurn (.issue 0x4000600000000002) (within .gate1 .wrw 2#32 0#32)) = some .notAHostMove ∧
    (after (hostTurn .readSTATUS (within .gate1 .wrw 2#32 0#32))).map (·.replies) = some [.status 0x05#32] := by decide
/-- V67: the frame stays open in the history. -/
theorem test_reset_in_a_frame : (after (hostTurn .reset (within .datB .wrw 2#32 0#32))).map
    (fun t => (t.csn, t.phase, t.wlen, t.wire)) = some (.z, .idle, 0#32, [.poll true, .csLow]) := by decide
/-- R77, R153: what the line `WRW 0x6000, [0x1234, 0xABCD]` of P1 stands for. -/
theorem test_syntax : lineTurns (.wrwList 0x6000#16 [0x1234#16, 0xABCD#16]) =
    [.host (.writeTXW 0 0x1234#16), .host (.writeTXW 1 0xABCD#16), .host (.writeWLEN 2#32),
      .host (.issue 0x4000600000000002)] := by decide
/-- The first instruction after reset: each row of the table runs. -/
theorem test_first_step :
    (after (step (State.reset.withFetchWord 64 0x4000600000000002))).isSome = true ∧
    (after (step (State.reset.withFetchWord 64 0x8000100000000003))).isSome = true ∧
    (after (step (State.reset.withFetchWord 64 0xC000000000000004))).isSome = true ∧
    (after (step (State.reset.withFetchWord 16 0b0000000000))).isSome = true ∧
    (after (step (State.reset.withFetchWord 16 0b0100000000))).isSome = true ∧
    (after (step (State.reset.withFetchWord 16 0b1000000000))).isSome = true ∧
    (after (step (State.reset.withFetchWord 16 0b1110100101))).isSome = true := by decide

-- ==== states that meet the hypotheses of the statements ====

theorem witness_decoded_word : decode (.cmd64 0x4000600000000002) = .ok (.wrw 0x6000#16 2#32) ∧
    decode (.uop10 0b1110100101#10) = .ok (.xchg 0xA5#8) := ⟨rfl, rfl⟩
theorem witness_rows : ∃ r ∈ opcodeMap, r.selects 0xC000000000000004 = true := by decide
theorem witness_descriptor :
    fieldOp 0x4000600000000002 = 1#2 ∧ fieldRsv 0x4000600000000002 = 0#14 ∧
    fieldOp 0x8000100000000003 = 2#2 ∧ fieldRsv 0x8000100000000003 = 0#14 ∧
    fieldOp 0xC000000000000004 = 3#2 ∧ fieldRsv 0xC000000000000004 = 0#14 ∧ fieldPre 0xC000000000000004 = 0#16 := by
  decide
theorem witness_line_bits : [false, false, true, true, true, true, false, true].length = 8 ∧
    7 < [false, false, true, true, true, true, false, true].length ∧ 7 < (lineBits 0xA5#8).length := by decide

theorem witness_host_turn_issue :
    { up with turns := [.host (.issue 0x4000600000000000)] }.turns = .host (.issue 0x4000600000000000) :: [] ∧
    decodeCmd64 0x4000600000000000 = .ok (.wrw 0x6000#16 0#32) := ⟨rfl, rfl⟩
theorem witness_engine_turns :
    (before .sel .wrw 2#32 0#32).turns = [] ∧ fetch (before .sel .wrw 2#32 0#32) = .word 0b0100000000#10 ∧
    fetch { before .sel .wrw 2#32 0#32 with turns := [.engine] } = .word 0b0100000000#10 ∧
    fetch { before .sel .wrw 2#32 0#32 with turns := [.wait] } = .word 0b0100000000#10 := by decide
theorem witness_engine_word : decodeUop10 0b0100000000#10 = .ok .cslow := rfl
theorem witness_exchange_word : fetch (within .datB .wrw 2#32 1#32) = .word 0b1111001101#10 := by decide
theorem witness_idle : up.phase = .idle ∧ up.turns = [] ∧ { up with turns := [.engine] }.turns = .engine :: [] ∧
    { up with turns := [.wait] }.turns = .wait :: [] := by decide
theorem witness_running_step :
    ((before .gate0 .wrw 2#32 0#32).phase ≠ .idle ∧ (after (engineTurn (before .gate0 .wrw 2#32 0#32))).isSome = true) ∧
    ((before .sel .wrw 2#32 0#32).phase ≠ .idle ∧ (after (engineTurn (before .sel .wrw 2#32 0#32))).isSome = true) ∧
    ((within .desel .wpp 4#32 4#32).phase ≠ .idle ∧ (after (engineTurn (within .desel .wpp 4#32 4#32))).isSome = true) ∧
    ((within .datB .rdw 8#32 7#32).phase ≠ .idle ∧ (after (engineTurn (within .datB .rdw 8#32 7#32))).isSome = true) := by
  decide

theorem witness_inv_down : Inv down := by constructor <;> decide
theorem witness_inv_up : Inv loaded := by constructor <;> decide
theorem witness_inv_select : Inv (before .sel .wrw 2#32 0#32) := by constructor <;> decide
theorem witness_inv_dummy : Inv (within .dmyA .rdw 8#32 0#32) := by constructor <;> decide
theorem witness_inv_pixels : Inv (within .preHi .wpp 4#32 2#32) := by constructor <;> decide
theorem witness_inv_deselect : Inv (within .desel .wpp 4#32 4#32) := by constructor <;> decide
theorem witness_inv_last_word : Inv (within .datB .rdw 8#32 7#32) := by constructor <;> decide
theorem witness_inv_done : Inv { up with done := true } := by constructor <;> decide
theorem witness_buffers_wf : BuffersWf { loaded with rxw := [(0, 1#16), (7, 2#16)] } := by constructor <;> decide
theorem witness_wire : WireInv (within .preHi .wrw 2#32 0#32) := by constructor <;> decide
theorem witness_wire_passed : WireInv { before .sel .wrw 2#32 0#32 with wire := [.poll false, .poll true] } := by
  constructor <;> decide
theorem witness_invariant_steps :
    (after (step { within .datB .rdw 8#32 7#32 with turns := [.wait] })).isSome = true ∧
    (after (step { loaded with turns := [.host (.issue 0xC000000000000004)] })).isSome = true ∧
    (after (step { within .gate1 .wpp 4#32 2#32 with turns := [.host .reset] })).isSome = true := by decide

theorem witness_inv_step : Inv (within .datB .rdw 8#32 7#32) ∧
    (after (step (within .datB .rdw 8#32 7#32))).isSome = true := ⟨witness_inv_last_word, by decide⟩
theorem witness_buffers_step : BuffersWf (within .datB .rdw 8#32 7#32) ∧
    (after (step (within .datB .rdw 8#32 7#32))).isSome = true := ⟨by constructor <;> decide, by decide⟩
theorem witness_frames_alternate_step : FramesAlternate (within .preHi .wrw 2#32 0#32) ∧
    (∀ ts, (within .preHi .wrw 2#32 0#32).turns = .host .reset :: ts →
      inFrame (within .preHi .wrw 2#32 0#32).phase = false) ∧
    (after (step (within .preHi .wrw 2#32 0#32))).isSome = true :=
  ⟨(by constructor <;> decide), (fun _ h => nomatch h), (by decide)⟩
/-- A reset at rest, after a frame that was closed. -/
theorem witness_frames_alternate_reset :
    FramesAlternate { up with wire := [.poll true, .csLow, .csHigh], turns := [.host .reset] } ∧
    inFrame up.phase = false ∧
    (after (step { up with wire := [.poll true, .csLow, .csHigh], turns := [.host .reset] })).isSome = true :=
  ⟨(by constructor <;> decide), (by decide), (by decide)⟩
/-- R129 (a): a second `CsLow` in an open frame, or a `CsHigh` with none open, breaks the alternation. -/
theorem test_frames_alternate :
    (scanWire [.poll true, .csLow, .poll true, .csLow]).alternates = false ∧ (scanWire [.csHigh]).alternates = false ∧
    (scanWire [.poll true, .csLow, .csHigh, .poll true, .csLow]).alternates = true := by decide
theorem witness_wire_step : WireInv (within .preHi .wrw 2#32 0#32) ∧
    (after (step (within .preHi .wrw 2#32 0#32))).isSome = true := ⟨witness_wire, by decide⟩

theorem witness_failed_bringup : (after (hostTurn (.bringup false) down)).isSome = true := by decide
theorem witness_life :
    (after (step { down with turns := [.host (.bringup true)] })).map (·.life) = some .up ∧
    (after (step { up with turns := [.host .teardown] })).map (·.life) = some .closed ∧
    (after (step { up with life := .closed, csn := .z, turns := [.host .reset] })).map (·.life) = some .down := by decide
theorem witness_teardown : (up.life = .up ∧ up.phase = .idle) ∧ ¬ (down.life = .up ∧ down.phase = .idle) := by decide
theorem witness_read_before_teardown : HostEvent.readWLEN ≠ .readSTATUS ∧
    hostTurn .readWLEN loaded = .next (replied (.length 2#32) loaded) := ⟨by decide, rfl⟩

/-- The indices and lengths at and just past the end of their range. -/
theorem witness_guards :
    hostGuard (.writeTXW 7 1#16) up ∧ ¬ hostGuard (.writeTXW 8 1#16) up ∧
    hostGuard (.writeTXP 7 1#8) up ∧ ¬ hostGuard (.writeTXP 8 1#8) up ∧
    hostGuard (.writeWLEN 8#32) up ∧ ¬ hostGuard (.writeWLEN 9#32) up ∧
    hostGuard (.writePLEN 8#32) up ∧ ¬ hostGuard (.writePLEN 9#32) up ∧
    hostGuard (.readRXW 7) up ∧ ¬ hostGuard (.readRXW 8) up := by unfold hostGuard; decide
theorem witness_guards_of_state :
    hostGuard (.issue 0) up ∧ ¬ hostGuard (.issue 0) (within .desel .wrw 2#32 2#32) ∧
    hostGuard (.bringup true) down ∧ ¬ hostGuard (.bringup true) up ∧
    hostGuard .teardown up ∧ ¬ hostGuard .teardown down ∧
    hostGuard .readSTATUS (within .desel .wrw 2#32 2#32) ∧ hostGuard .reset (within .desel .wrw 2#32 2#32) := by
  unfold hostGuard; decide
theorem witness_cells : up.phase = .idle ∧ 7 < up.params.wcap.toNat ∧ 7 < up.params.pcap.toNat ∧
    7 < up.params.rcap.toNat ∧ 8#32 ≤ up.params.wcap ∧ 8#32 ≤ up.params.pcap ∧ 0#32 ≤ up.params.wcap := by decide

theorem witness_issue : up.phase = .idle ∧ issueCause 0x4000600000000000 up = .none ∧
    issueCause 0x4000600000000001 up = .lenMismatch ∧ issueCause 0xC000000000000000 up = .none ∧
    (within .desel .wrw 2#32 2#32).phase ≠ .idle := by decide
theorem witness_illegal : up.phase = .idle ∧ up.life = .up ∧
    (0x3FFFFFFFFFFFFFFF : BitVec 64).extractLsb 63 62 = 0#2 ∧
    (0x4001600000000002 : BitVec 64).extractLsb 61 48 ≠ 0#14 ∧
    ((0xC000000100000002 : BitVec 64).extractLsb 63 62 = 3#2 ∧
      (0xC000000100000002 : BitVec 64).extractLsb 47 32 ≠ 0#16) := by decide
theorem witness_rejected : (after (hostTurn (.issue 0x8000100000000009) up)).map (·.err) = some .capacity := by decide
theorem witness_accepted :
    (up.phase = .idle ∧ up.life = .up ∧ 0#32 = up.wlen) ∧
    (up.phase = .idle ∧ up.life = .up ∧ 8#32 ≤ up.params.rcap) ∧ (0#32 ≤ up.params.rcap) ∧
    (loaded.phase = .idle ∧ loaded.life = .up ∧ (4#32).getLsbD 0 = false ∧ 4#32 = loaded.plen ∧ 4#32 ≠ 0#32) := by
  decide
theorem witness_empty_pixels : (up.phase = .idle ∧ up.life = .up ∧ up.plen = 0#32) ∧
    (loaded.phase = .idle ∧ loaded.life = .up ∧ loaded.plen ≠ 0#32) := by decide
theorem witness_issue_outcomes :
    (after (hostTurn (.issue 0x4000600000000000) up)).map (·.phase) = some .gate0 ∧
    (after (hostTurn (.issue 0xC000000000000000) up)).map (·.done) = some true ∧
    (after (hostTurn (.issue 0x4000600000000001) up)).map (·.err) = some .lenMismatch := by decide

theorem witness_gates : (before .gate0 .wpp 4#32 0#32).phase = .gate0 ∧ (within .gate1 .rdw 0#32 0#32).phase = .gate1 ∧
    (within .gate2 .rdw 1#32 0#32).phase = .gate2 := by decide
theorem witness_sel : (before .sel .wrw 0#32 0#32).phase = .sel ∧ (within .desel .wrw 0#32 0#32).phase ≠ .sel := by decide
theorem witness_desel :
    ((within .desel .wrw 0#32 0#32).phase = .desel ∧ (within .desel .wrw 0#32 0#32).op = .wrw) ∧
    ((within .desel .rdw 0#32 0#32).phase = .desel ∧ (within .desel .rdw 0#32 0#32).op = .rdw) ∧
    ((within .desel .wpp 4#32 2#32).op = .wpp ∧ (within .desel .wpp 4#32 2#32).idx < (within .desel .wpp 4#32 2#32).cnt) ∧
    ((within .desel .wpp 4#32 4#32).op = .wpp ∧ ¬ (within .desel .wpp 4#32 4#32).idx < (within .desel .wpp 4#32 4#32).cnt)
  := by decide
theorem witness_desel_ends : (after (engineTurn (within .desel .wpp 4#32 4#32))).map (·.phase) = some .idle := by decide
theorem witness_exchange_phases :
    (within .preHi .wrw 2#32 0#32).phase = .preHi ∧ (within .preLo .wrw 2#32 0#32).phase = .preLo ∧
    (within .dmyA .rdw 2#32 0#32).phase = .dmyA ∧ (within .dmyB .rdw 2#32 0#32).phase = .dmyB ∧
    (within .datA .rdw 2#32 0#32).phase = .datA ∧
    ((within .datB .rdw 8#32 7#32).phase = .datB ∧ (within .datB .rdw 8#32 7#32).op = .rdw ∧
      (within .datB .rdw 8#32 7#32).idx < (within .datB .rdw 8#32 7#32).params.rcap) := by decide
/-- The last cell of each buffer, and the first index past it. -/
theorem witness_data_indices :
    (within .datA .wrw 8#32 7#32).idx < 8#32 ∧ (within .datB .wrw 8#32 7#32).idx < 8#32 ∧
    (within .datA .wpp 8#32 6#32).idx + 1#32 < 8#32 ∧ (within .datB .wpp 8#32 7#32).idx < 8#32 ∧
    ¬ (within .datA .wrw 9#32 8#32).idx < 8#32 ∧ ¬ (within .datB .rdw 9#32 8#32).idx < 8#32 ∧
    ¬ (within .datA .wpp 9#32 7#32).idx + 1#32 < 8#32 ∧ ¬ (within .datB .wpp 9#32 8#32).idx < 8#32 := by decide
theorem witness_no_cell : stop (engineTurn (within .datB .rdw 9#32 8#32)) = some .noSuchCell := by decide
theorem witness_out_of_phase : refusal (exec (.xchg 0xA5#8) (before .gate0 .wrw 2#32 0#32)) = some .microOpOutOfPhase ∧
    refusal (exec .waitrdy up) = some .microOpOutOfPhase ∧ refusal (exec .cslow up) = some .microOpOutOfPhase ∧
    refusal (exec .cshigh up) = some .microOpOutOfPhase := by decide

theorem witness_command_frame : (after (exec (.wrw 0x6000#16 2#32) loaded)).isSome = true ∧
    (after (exec (.rdw 0x1000#16 8#32) loaded)).isSome = true ∧ (after (exec (.wpp 4#32) loaded)).isSome = true := by decide
theorem witness_gate_frame : (after (exec .waitrdy (within .gate2 .rdw 1#32 0#32))).isSome = true ∧
    (after (exec .cslow (before .sel .wrw 0#32 0#32))).isSome = true ∧
    (after (exec .cshigh (within .desel .rdw 3#32 3#32))).isSome = true := by decide
theorem witness_exchange_frame : (after (exec (.xchg 0#8) (within .datB .rdw 8#32 7#32))).isSome = true ∧
    (after (exec (.xchg 0#8) (within .datA .rdw 8#32 7#32))).isSome = true ∧
    (after (exec (.xchg 0#8) (within .datB .wrw 2#32 1#32))).isSome = true := by decide
theorem witness_latched : (after (step { up with turns := [.host (.issue 0x8000100000000003)] })).map (·.cnt) = some 3#32 ∧
    (after (step (within .datB .rdw 8#32 7#32))).map (·.cnt) = some 8#32 := by decide

theorem witness_same_but_received : SameButReceived (within .datB .rdw 2#32 0#32)
    { within .datB .rdw 2#32 0#32 with rxh := 0x55#8, rxw := [(1, 7#16)], bytes := [0x77#8] } := by constructor <;> decide
theorem witness_received_step : (after (step (within .datB .rdw 2#32 0#32))).isSome = true := by decide
theorem witness_same_but_unwritten : SameButUnwritten { up with turns := [.host (.issue 0x8000100000000003)] }
    { up with turns := [.host (.issue 0x8000100000000003)], op := .wpp, pre := 1#16, cnt := 5#32, idx := 9#32, rxh := 3#8 } := by
  constructor <;> decide
theorem witness_unwritten_step :
    (after (step { up with turns := [.host (.issue 0x8000100000000003)] })).isSome = true := by decide

/-- A gate whose device holds it back for three samples. -/
def held : State := { before .gate0 .wrw 2#32 0#32 with levels := [false, false, false, true] }
theorem witness_unready : held.phase = .gate0 ∧ held.turns = [] ∧ held.levels = List.replicate 3 false ++ [true] := by
  decide
/-- The issue, the levels and the bytes of P1. -/
def p1 : State :=
  { loaded with
    turns := [.host (.issue 0x4000600000000002), .wait], levels := [false, false, true, true]
    bytes := [0xFF#8, 0xFF#8, 0xA1#8, 0xA2#8, 0xA3#8, 0xA4#8] }
theorem witness_word_write : p1.phase = .idle ∧ p1.life = .up ∧ p1.wlen ≤ p1.params.wcap ∧
    p1.turns = .host (.issue (wrwDescriptor 0x6000#16 p1.wlen)) :: .wait :: [] ∧
    p1.levels = gateLevels 2 ++ gateLevels 0 ++ [] ∧ p1.bytes.length = 2 + 2 * p1.wlen.toNat := by decide
/-- The issue, the levels and the bytes of P2. -/
def p2 : State :=
  { up with
    turns := [.host (.issue 0x8000100000000003), .wait], levels := [true, false, true, false, false, false, true]
    bytes := [0xEE#8, 0xEE#8, 0xDD#8, 0xDD#8, 0x12#8, 0x34#8, 0x00#8, 0xFF#8, 0x80#8, 0x01#8] }
theorem witness_word_read : p2.phase = .idle ∧ p2.life = .up ∧ 3#32 ≤ p2.params.rcap ∧
    p2.turns = .host (.issue (rdwDescriptor 0x1000#16 3#32)) :: .wait :: [] ∧
    p2.levels = gateLevels 0 ++ gateLevels 1 ++ gateLevels 3 ++ [] ∧
    p2.bytes.length = 4 + 2 * (3#32).toNat ∧ p2.bytes[4]? = some 0x12#8 ∧ p2.bytes[5]? = some 0x34#8 := by decide
/-- The issue, the levels and the bytes of P4. -/
def p4 : State :=
  { loaded with
    turns := [.host (.issue 0xC000000000000004), .wait], levels := [true, true, false, true, false, true]
    bytes := List.replicate 8 0#8 }
theorem witness_pixel_write : p4.phase = .idle ∧ p4.life = .up ∧ p4.plen ≤ p4.params.pcap ∧
    p4.plen.toNat = 2 * [(0, 0), (1, 1)].length ∧ p4.turns = .host (.issue (wppDescriptor p4.plen)) :: .wait :: [] ∧
    p4.levels = pixelLevels [(0, 0), (1, 1)] ++ [] ∧ p4.bytes.length = 4 * [(0, 0), (1, 1)].length := by decide
/-- A round trip as in P3, of the two words of `loaded`. -/
def p3 : State :=
  { loaded with
    turns := [.host (.issue 0x4000000000000002), .wait, .host (.issue 0x8000100000000002), .wait]
    levels := [true, true, true, true, true]
    bytes := List.replicate 10 0#8 ++ [0x12#8, 0x34#8, 0xAB#8, 0xCD#8] }
theorem witness_round_trip : p3.phase = .idle ∧ p3.life = .up ∧ p3.wlen ≤ p3.params.wcap ∧ p3.wlen ≤ p3.params.rcap ∧
    p3.turns = .host (.issue (wrwDescriptor 0#16 p3.wlen)) :: .wait
      :: .host (.issue (rdwDescriptor 0x1000#16 p3.wlen)) :: .wait :: [] ∧
    p3.levels = gateLevels 0 ++ gateLevels 0 ++ (gateLevels 0 ++ gateLevels 0 ++ gateLevels 0 ++ []) ∧
    p3.bytes = List.replicate 6 0#8 ++ (List.replicate 4 0#8 ++ wordBytes (wordsToSend p3 p3.wlen.toNat) ++ []) := by
  decide

end Sys2Proof.Tests
end

section
/-! The bytes of a word (R7, R8): `joinBytes` is concatenation, and a word is the join of its halves. -/

namespace Sys2Proof.Machine

/-- The shift-and-or of `joinBytes` is concatenation (R7, R54). -/
theorem joinBytes_eq_append (a b : Byte) : joinBytes a b = a ++ b := by
  have h : (a ++ b).setWidth 16 = joinBytes a b := BitVec.setWidth_append_eq_shiftLeft_setWidth_or
  rw [← h, BitVec.setWidth_eq]

@[simp] theorem hi_append_lo (w : Word) : hi w ++ lo w = w :=
  BitVec.extractLsb'_append_extractLsb' (w := 8) (len := 8)

@[simp] theorem joinBytes_hi_lo (w : Word) : joinBytes (hi w) (lo w) = w := by
  rw [joinBytes_eq_append, hi_append_lo]

end Sys2Proof.Machine

open Sys2Proof Sys2Proof.Machine

/-- Settles O6: `hi` and `lo` cut the word into its two halves, and the shift-and-or form is `joinBytes` of them. -/
theorem wordIsItsHighAndLowByte : Obligations.WordIsItsHighAndLowByte := fun w =>
  ⟨rfl, rfl, (hi_append_lo w).symm, (joinBytes_hi_lo w).symm⟩

end

section
/-! Whose turn it is (R12): a step as an equation for each turn, and the placing of a word as what the step then runs. -/

namespace Sys2Proof.Machine

theorem step_of_no_turn {s : State} (h : s.turns = []) : step s = engineTurn s := by
  simp only [step, h]

theorem step_of_engine {s : State} {ts : List Turn} (h : s.turns = .engine :: ts) :
    step s = engineTurn { s with turns := ts } := by
  simp only [step, h]

theorem step_of_wait {s : State} {ts : List Turn} (h : s.turns = .wait :: ts) :
    step s = if busy s then engineTurn s else .next { s with turns := ts } := by
  simp only [step, h]

theorem step_of_host {s : State} {e : HostEvent} {ts : List Turn} (h : s.turns = .host e :: ts) :
    step s = hostTurn e { s with turns := ts } := by
  simp only [step, h]

theorem engineTurn_of_word {s : State} {w : BitVec 10} {i : Instr} (hf : fetch s = .word w)
    (hd : decodeUop10 w = .ok i) : engineTurn s = exec i s := by
  simp only [engineTurn, hf, hd]

theorem issueWord_of_decoded {d : BitVec 64} {i : Instr} (hd : decodeCmd64 d = .ok i) (s : State) :
    issueWord d s = exec i s := by
  simp only [issueWord, hd]

theorem busy_of_word {s : State} {w : BitVec 10} (hf : fetch s = .word w) : busy s = true := by
  refine decide_eq_true fun hp => ?_
  simp [fetch, hp] at hf

theorem tableCode_descriptor (d : BitVec 64) : tableCode 64 d.toNat = some (.cmd64 d) := by
  simp [tableCode, d.isLt]

theorem tableCode_microWord (w : BitVec 10) : tableCode 16 w.toNat = some (.uop10 w) := by
  simp [tableCode, w.isLt]

/-- A placed descriptor is issued by the next step, with the sequencer at rest. -/
theorem step_withFetchWord_descriptor (s : State) (d : BitVec 64) :
    step (s.withFetchWord 64 d.toNat) = issueWord d { s with phase := .idle } := by
  rw [State.withFetchWord, tableCode_descriptor]
  rfl

/-- A placed micro-operation word is left to the engine's next step. -/
theorem step_withFetchWord_microWord (s : State) (w : BitVec 10) :
    step (s.withFetchWord 16 w.toNat) = engineTurn { placeMicroWord w s with turns := s.turns } := by
  rw [State.withFetchWord, tableCode_microWord]
  rfl

theorem decode_encode (i : Instr) : decode (encode i) = .ok i := by
  cases i <;> simp [encode, decode, decodeCmd64]

end Sys2Proof.Machine

open Sys2Proof Sys2Proof.Machine

/-- Settles O9: the host's turn and each kind of engine turn, through the equation of `step` for that turn. -/
theorem stepRunsTheDecodedInstruction : Obligations.StepRunsTheDecodedInstruction := by
  refine ⟨?_, ?_, ?_, ?_⟩
  · intro s d ts i ht hd
    rw [step_of_host ht]
    exact issueWord_of_decoded hd _
  · intro s w i ht hf hd
    rw [step_of_no_turn ht, engineTurn_of_word hf hd]
  · intro s w ts i ht hf hd
    rw [step_of_engine ht]
    exact engineTurn_of_word hf hd
  · intro s w ts i ht hf hd
    rw [step_of_wait ht, if_pos (busy_of_word hf), engineTurn_of_word hf hd]

/-- Settles O10: a command is issued at rest; a micro-operation is performed in the phase its word was placed in. -/
theorem placedWordRunsNext : Obligations.PlacedWordRunsNext := by
  intro s i
  have command (d : BitVec 64) (hd : decodeCmd64 d = .ok i) :
      step (s.withFetchWord 64 d.toNat) = exec i { s with phase := .idle, pre := s.pre } := by
    rw [step_withFetchWord_descriptor, issueWord_of_decoded hd]
  have micro (w : BitVec 10) (p : Phase) (pre : Word) (hw : decodeUop10 w = .ok i)
      (hplace : placeMicroWord w s = { s with phase := p, pre := pre })
      (hfetch : fetch { s with phase := p, pre := pre } = .word w) :
      step (s.withFetchWord 16 w.toNat) = exec i { s with phase := p, pre := pre } := by
    rw [step_withFetchWord_microWord, hplace]
    exact engineTurn_of_word hfetch hw
  cases i with
  | wrw pre cnt => exact ⟨.idle, s.pre, command _ (decode_encode (.wrw pre cnt)), fun _ => rfl⟩
  | rdw pre cnt => exact ⟨.idle, s.pre, command _ (decode_encode (.rdw pre cnt)), fun _ => rfl⟩
  | wpp cnt => exact ⟨.idle, s.pre, command _ (decode_encode (.wpp cnt)), fun _ => rfl⟩
  | waitrdy => exact ⟨.gate0, s.pre, micro _ _ _ decodeUop10_gate rfl rfl, fun _ => rfl⟩
  | cslow => exact ⟨.sel, s.pre, micro _ _ _ decodeUop10_low rfl rfl, fun _ => rfl⟩
  | cshigh => exact ⟨.desel, s.pre, micro _ _ _ decodeUop10_high rfl rfl, fun _ => rfl⟩
  | xchg out =>
    have high : hi (out ++ 0#8) = out := BitVec.extractLsb'_append_eq_left
    exact ⟨.preHi, out ++ 0#8,
      micro _ _ _ (decodeUop10_xchg out) (by simp [placeMicroWord]) (by simp [fetch, xchgWord, high]),
      fun h => absurd rfl (h out)⟩

end

section
/-! An issue read from the fields of its descriptor (R113), and the steps of the micro-operations as equations: what
`issueWord`, WAITRDY, CSLOW, CSHIGH and XCHG answer where they have a meaning. -/

namespace Sys2Proof.Machine

open Sys2Proof.Safety

theorem issueCause_fields (d : BitVec 64) (s : State) :
    issueCause d s =
      if s.life ≠ .up then .notUp
      else if fieldOp d = 0#2 ∨ fieldRsv d ≠ 0#14 ∨ (fieldOp d = 3#2 ∧ fieldPre d ≠ 0#16) then .illegalCmd
      else if fieldOp d = 3#2 ∧ (fieldCnt d).getLsbD 0 = true then .oddCount
      else if fieldOp d = 1#2 ∧ fieldCnt d ≠ s.wlen then .lenMismatch
      else if fieldOp d = 3#2 ∧ fieldCnt d ≠ s.plen then .lenMismatch
      else if fieldOp d = 2#2 ∧ s.params.rcap < fieldCnt d then .capacity
      else .none := rfl

theorem issueCause_of_wrw {d : BitVec 64} (hop : fieldOp d = 1#2) (hrsv : fieldRsv d = 0#14) (s : State) :
    issueCause d s = issueError .wrw (fieldCnt d) s := by
  simp [issueCause_fields, issueError, hop, hrsv]

theorem issueCause_of_rdw {d : BitVec 64} (hop : fieldOp d = 2#2) (hrsv : fieldRsv d = 0#14) (s : State) :
    issueCause d s = issueError .rdw (fieldCnt d) s := by
  simp [issueCause_fields, issueError, hop, hrsv]

theorem issueCause_of_wpp {d : BitVec 64} (hop : fieldOp d = 3#2) (hrsv : fieldRsv d = 0#14)
    (hpre : fieldPre d = 0#16) (s : State) : issueCause d s = issueError .wpp (fieldCnt d) s := by
  simp [issueCause_fields, issueError, hop, hrsv, hpre]

/-- The fields that encode no command (R70, R71, R74). -/
abbrev IllegalFields (d : BitVec 64) : Prop :=
  fieldOp d = 0#2 ∨ fieldRsv d ≠ 0#14 ∨ (fieldOp d = 3#2 ∧ fieldPre d ≠ 0#16)

theorem issueCause_of_illegal {d : BitVec 64} (hd : IllegalFields d) (s : State) :
    issueCause d s = illegalError s := by
  rw [issueCause_fields, if_pos hd, illegalError]

theorem decodeCmd64_of_illegal {d : BitVec 64} (hd : IllegalFields d) : ∃ e, decodeCmd64 d = .error e := by
  unfold decodeCmd64
  by_cases h0 : fieldOp d = 0#2
  · exact ⟨_, if_pos h0⟩
  by_cases hr : fieldRsv d = 0#14
  case neg => exact ⟨_, by rw [if_neg h0, if_pos hr]⟩
  obtain ⟨h3, hp⟩ := (hd.resolve_left h0).resolve_left (not_not_intro hr)
  exact ⟨.wppPreamble, by simp [h3, hr, hp]⟩

@[simp] theorem illegalError_ne_none (s : State) : illegalError s ≠ .none := by
  unfold illegalError
  split <;> simp

theorem opCode_exhausted {c : BitVec 2} (h0 : c ≠ 0#2) (h1 : c ≠ 1#2) (h2 : c ≠ 2#2) : c = 3#2 := by
  revert c; decide

/-- R113: an issue at rest is accepted with the fields of its descriptor, or refused with its first cause. -/
theorem issueWord_eq (d : BitVec 64) (s : State) :
    issueWord d s =
      if s.phase = .idle then
        .next (if issueCause d s = .none then accept (opOfCode (fieldOp d)) (fieldPre d) (fieldCnt d) s
          else reject (issueCause d s) s)
      else .refused .notAHostMove := by
  by_cases hd : IllegalFields d
  · obtain ⟨e, hdec⟩ := decodeCmd64_of_illegal hd
    simp [issueWord, hdec, issueIllegal, issueCause_of_illegal hd]
  · simp only [IllegalFields, not_or, not_and, not_not] at hd
    obtain ⟨h0, hr, hp⟩ := hd
    by_cases h1 : fieldOp d = 1#2
    · simp [issueWord, decodeCmd64, h1, hr, exec, execWrw, issue, issueCause_of_wrw, opOfCode]
    by_cases h2 : fieldOp d = 2#2
    · simp [issueWord, decodeCmd64, h2, hr, exec, execRdw, issue, issueCause_of_rdw, opOfCode]
    have h3 := opCode_exhausted h0 h1 h2
    simp [issueWord, decodeCmd64, h3, hr, hp, exec, execWpp, issue, issueCause_of_wpp, opOfCode]

theorem issueWord_of_idle {d : BitVec 64} {s : State} (h : s.phase = .idle) :
    issueWord d s = .next (if issueCause d s = .none then accept (opOfCode (fieldOp d)) (fieldPre d) (fieldCnt d) s
      else reject (issueCause d s) s) := by
  rw [issueWord_eq, if_pos h]

/-- An issue answers with its acceptance or a rejection, and what it accepts is what its fields say (R113). -/
theorem issueWord_outcome {d : BitVec 64} {s t : State} (h : issueWord d s = .next t) :
    s.phase = .idle ∧
      ((issueCause d s = .none ∧ t = accept (opOfCode (fieldOp d)) (fieldPre d) (fieldCnt d) s) ∨
        (issueCause d s ≠ .none ∧ t = reject (issueCause d s) s)) := by
  obtain ⟨hp, -⟩ := issueWord_next h
  rw [issueWord_of_idle hp] at h
  cases h
  by_cases hc : issueCause d s = .none
  · exact ⟨hp, .inl ⟨hc, if_pos hc⟩⟩
  · exact ⟨hp, .inr ⟨hc, if_neg hc⟩⟩

theorem execWaitrdy_of_exit {s : State} {p : Phase} (h : gateExit s = some p) :
    execWaitrdy s = .next { sampled s with phase := if rdyLevel s then p else s.phase } := by
  simp only [execWaitrdy, h]

theorem execCslow_of_sel {s : State} (h : s.phase = .sel) :
    execCslow s = .next { s with csn := .low, phase := .preHi, wire := s.wire ++ [.csLow] } := if_pos h

theorem execCshigh_of_desel {s : State} (h : s.phase = .desel) :
    execCshigh s = .next { s with
      csn := .high
      phase := if commandEnds s then .idle else .gate0
      done := s.done || commandEnds s
      rlen := if s.op = .rdw then s.cnt else s.rlen
      wire := s.wire ++ [.csHigh] } := if_pos h

/-- XCHG in the phases that neither store the byte nor move the element on (R118, R119, R121, R122). -/
theorem execXchg_of_plain {s : State} (out : Byte) :
    (s.phase = .preHi → execXchg out s = .next { exchanged out s with phase := .preLo }) ∧
    (s.phase = .preLo → execXchg out s = .next { exchanged out s with phase := .gate1 }) ∧
    (s.phase = .dmyA → execXchg out s = .next { exchanged out s with phase := .dmyB }) ∧
    (s.phase = .dmyB → execXchg out s = .next { exchanged out s with phase := .gate2 }) := by
  refine ⟨?_, ?_, ?_, ?_⟩ <;> intro h <;> simp only [execXchg, h]

theorem execXchg_of_datA {s : State} (h : s.phase = .datA) (out : Byte) :
    execXchg out s = .next (dataFirst out s) := by
  simp only [execXchg, h]

theorem execXchg_of_datB {s : State} (h : s.phase = .datB) (cell : ¬ (s.op = .rdw ∧ s.params.rcap ≤ s.idx))
    (out : Byte) : execXchg out s = .next (dataSecond out s) := by
  simp only [execXchg, h, if_neg cell]

end Sys2Proof.Machine
end

section
/-! What the engine leaves alone (R115): its step as a frame, and what the host's events leave alone; from them the
rules of the whole machine follow. -/

namespace Sys2Proof.Machine

open Sys2Proof.Safety

/-- `t` agrees with `s` in everything that no step of the engine writes. -/
structure EngineFrame (s t : State) : Prop where
  params : t.params = s.params
  life : t.life = s.life
  op : t.op = s.op
  pre : t.pre = s.pre
  cnt : t.cnt = s.cnt
  err : t.err = s.err
  wlen : t.wlen = s.wlen
  plen : t.plen = s.plen
  txw : t.txw = s.txw
  txp : t.txp = s.txp
  replies : t.replies = s.replies
  turns : t.turns = s.turns
  resets : t.resets = s.resets

theorem execXchg_frame {out : Byte} {s t : State} (h : execXchg out s = .next t) : EngineFrame s t := by
  rcases execXchg_next h with ⟨-, rfl⟩ | ⟨-, rfl⟩ | ⟨-, rfl⟩ | ⟨-, rfl⟩ | ⟨-, rfl⟩ | ⟨-, -, rfl⟩ <;>
    constructor <;> rfl

theorem engineTurn_frame {s t : State} (h : engineTurn s = .next t) : EngineFrame s t := by
  rcases engineTurn_next h with ⟨-, rfl⟩ | ⟨-, h⟩ | ⟨-, h⟩ | ⟨-, h⟩ | ⟨-, out, h⟩
  · constructor <;> rfl
  · obtain ⟨p, -, rfl⟩ := execWaitrdy_next h
    constructor <;> rfl
  · obtain ⟨-, rfl⟩ := execCslow_next h
    constructor <;> rfl
  · obtain ⟨-, rfl⟩ := execCshigh_next h
    constructor <;> rfl
  · exact execXchg_frame h

/-- The engine writes `RXW` only with the second byte of a received word, and then the cell at `IDX` (R38, R125). -/
theorem engineTurn_rxw {s t : State} (h : engineTurn s = .next t) :
    t.rxw = s.rxw ∨
      ∃ v, s.phase = .datB ∧ s.op = .rdw ∧ t.rxw = writeCell s.rxw s.idx.toNat v := by
  rcases engineTurn_next h with ⟨-, rfl⟩ | ⟨-, h⟩ | ⟨-, h⟩ | ⟨-, h⟩ | ⟨-, out, h⟩
  · exact .inl rfl
  · obtain ⟨p, -, rfl⟩ := execWaitrdy_next h
    exact .inl rfl
  · obtain ⟨-, rfl⟩ := execCslow_next h
    exact .inl rfl
  · obtain ⟨-, rfl⟩ := execCshigh_next h
    exact .inl rfl
  rcases execXchg_next h with ⟨-, rfl⟩ | ⟨-, rfl⟩ | ⟨-, rfl⟩ | ⟨-, rfl⟩ | ⟨-, rfl⟩ | ⟨hp, -, rfl⟩
  case inr.inr.inr.inr.inr =>
    by_cases ho : s.op = .rdw
    · exact .inr ⟨_, hp, ho, if_pos ho⟩
    · exact .inl (if_neg ho)
  all_goals exact .inl rfl

/-- `t` agrees with `s` in the registers, the pin and the buffer that only an acceptance, BRINGUP, TEARDOWN, reset or the
engine writes. -/
structure HostFrame (s t : State) : Prop where
  csn : t.csn = s.csn
  life : t.life = s.life
  phase : t.phase = s.phase
  op : t.op = s.op
  pre : t.pre = s.pre
  cnt : t.cnt = s.cnt
  idx : t.idx = s.idx
  rxh : t.rxh = s.rxh
  rlen : t.rlen = s.rlen
  rxw : t.rxw = s.rxw
  wire : t.wire = s.wire

/-- The four kinds of host event that write a register of `HostFrame`, and all the others. -/
theorem hostTurn_frame {e : HostEvent} {s t : State} (he : hostTurn e s = .next t) :
    (∃ d, e = .issue d ∧ s.phase = .idle ∧ issueCause d s = .none ∧
      t = accept (opOfCode (fieldOp d)) (fieldPre d) (fieldCnt d) s) ∨
    (∃ ok, e = .bringup ok ∧ s.life = .down ∧ t = { broughtUp ok s with replies := s.replies ++ [.outcome ok] }) ∨
    (e = .teardown ∧ s.life = .up ∧ t = { s with life := .closed, csn := .z }) ∨
    (e = .reset ∧ t = resetEvent s) ∨
    HostFrame s t := by
  rcases hostTurn_next he with ⟨d, rfl, hi⟩ | ⟨i, v, -, -, rfl⟩ | ⟨i, v, -, -, rfl⟩ | ⟨n, -, -, rfl⟩ |
    ⟨n, -, -, rfl⟩ | ⟨r, rfl⟩ | bringup | ⟨rfl, ⟨hl, -⟩, rfl⟩ | reset
  case inl =>
    obtain ⟨hp, ⟨hc, rfl⟩ | ⟨-, rfl⟩⟩ := issueWord_outcome hi
    · exact .inl ⟨d, rfl, hp, hc, rfl⟩
    · iterate 4 right
      constructor <;> rfl
  case inr.inr.inr.inr.inr.inr.inl => exact .inr (.inl bringup)
  case inr.inr.inr.inr.inr.inr.inr.inl => exact .inr (.inr (.inl ⟨rfl, hl, rfl⟩))
  case inr.inr.inr.inr.inr.inr.inr.inr => exact .inr (.inr (.inr (.inl reset)))
  all_goals
    iterate 4 right
    constructor <;> rfl

end Sys2Proof.Machine

open Sys2Proof Sys2Proof.Machine Sys2Proof.Safety

/-- Settles O19: of the host's events only BRINGUP, TEARDOWN and reset write `LIFE`, and the engine never does. -/
theorem lifeChangesOnlyByItsThreeEvents : Obligations.LifeChangesOnlyByItsThreeEvents := by
  intro s t hstep
  rcases step_next hstep with ⟨e, ts, hts, he⟩ | ⟨ts, he⟩ | ⟨ts, rfl⟩
  · rcases hostTurn_frame he with ⟨d, -, -, -, rfl⟩ | ⟨ok, rfl, hl, rfl⟩ | ⟨rfl, hl, rfl⟩ | ⟨rfl, rfl⟩ | frame
    · exact .inl rfl
    · cases ok
      · exact .inl rfl
      · exact .inr (.inl ⟨hl, rfl, ts, hts⟩)
    · exact .inr (.inr (.inl ⟨hl, rfl, ts, hts⟩))
    · exact .inr (.inr (.inr ⟨rfl, ts, hts⟩))
    · exact .inl frame.life
  · exact .inl (engineTurn_frame he).life
  · exact .inl rfl

/-- Settles O52: acceptance latches the descriptor's fields; no other event but reset, and no step of the engine, writes
them. -/
theorem latchedFieldsChangeOnlyAtAcceptance : Obligations.LatchedFieldsChangeOnlyAtAcceptance := by
  intro s t hstep
  rcases step_next hstep with ⟨e, ts, hts, he⟩ | ⟨ts, he⟩ | ⟨ts, rfl⟩
  · rcases hostTurn_frame he with ⟨d, rfl, hp, hc, rfl⟩ | ⟨ok, -, -, rfl⟩ | ⟨-, -, rfl⟩ | ⟨rfl, -⟩ | frame
    · exact .inr (.inl ⟨d, ts, hts, hc, hp, rfl, rfl, rfl⟩)
    · cases ok <;> exact .inl ⟨rfl, rfl, rfl⟩
    · exact .inl ⟨rfl, rfl, rfl⟩
    · exact .inr (.inr ⟨ts, hts⟩)
    · exact .inl ⟨frame.op, frame.pre, frame.cnt⟩
  · have frame := engineTurn_frame he
    exact .inl ⟨frame.op, frame.pre, frame.cnt⟩
  · exact .inl ⟨rfl, rfl, rfl⟩

theorem hostTurn_keeps_rxw {s t : State} {e : HostEvent} (he : hostTurn e s = .next t) (hr : e ≠ .reset) :
    t.rxw = s.rxw := by
  rcases hostTurn_frame he with ⟨d, -, -, -, rfl⟩ | ⟨ok, -, -, rfl⟩ | ⟨-, -, rfl⟩ | ⟨rfl, -⟩ | frame
  · rfl
  · cases ok <;> rfl
  · rfl
  · exact absurd rfl hr
  · exact frame.rxw

/-- Settles O53: the frame of the engine's step, the one cell of `RXW` it stores, and the host's events without it. -/
theorem buffersAreWrittenOnlyByTheirWriters : Obligations.BuffersAreWrittenOnlyByTheirWriters := by
  refine ⟨fun s t he => ?_, fun s t e he hr => hostTurn_keeps_rxw he hr⟩
  have frame := engineTurn_frame he
  refine ⟨frame.txw, frame.txp, frame.wlen, frame.plen, fun hn => ?_, fun a ha => ?_⟩
  · rcases engineTurn_rxw he with same | ⟨v, hp, ho, -⟩
    · exact same
    · exact absurd ⟨hp, ho⟩ hn
  · unfold readRXW
    rw [frame.resets]
    rcases engineTurn_rxw he with same | ⟨v, -, -, stored⟩
    · rw [same]
    · rw [stored, readCell_writeCell_other _ _ ha]

end

section
/-! The invariants of R42, step by step: each move of the host and each micro-operation of the engine keeps `Inv`. A proof
names the fields of `Inv` that the move touches; the others are those of the state before. -/

namespace Sys2Proof.Safety

open Sys2Proof.Machine

theorem Inv.spend {s : State} (h : Inv s) (ts : List Turn) : Inv { s with turns := ts } := { h with }

theorem Inv.exchanged {s : State} (h : Inv s) (out : Byte) : Inv (exchanged out s) := { h with }

/-- While a command runs chip-select is low in the phases of a frame and high in the others (R42 items 1 to 3). -/
theorem Inv.csn_of_running {s : State} (h : Inv s) (hs : s.phase ≠ .idle) :
    s.csn = if inFrame s.phase then .low else .high := by
  have hl : s.life = .up := by_contra fun hl => hs (h.rest_unless_up hl)
  cases hf : inFrame s.phase
  · exact h.high_outside_frame hl hf
  · exact h.low_in_frame hf

/-- At rest only the pin, `DONE` and the two lengths are constrained. -/
theorem inv_of_idle {s : State} (hp : s.phase = .idle)
    (high : s.life = .up → s.csn = .high) (undriven : s.life ≠ .up → s.csn = .z)
    (done_means : s.done = true → s.err = .none ∧ s.idx = s.cnt) (down_not_done : s.life = .down → s.done = false)
    (words_fit : s.wlen ≤ s.params.wcap) (pixels_fit : s.plen ≤ s.params.pcap) : Inv s where
  rest_unless_up _ := hp
  high_outside_frame hl _ := high hl
  low_in_frame hf := by simp [hp, inFrame] at hf
  undriven_unless_up := undriven
  index_in_range hs := absurd hp hs
  element_left hs := by simp [hp] at hs
  dummy_is_read hs := by simp [hp] at hs
  pixel_command _ hs := absurd hp hs
  write_length _ hs := absurd hp hs
  read_fits _ hs := absurd hp hs
  done_means hd := ⟨hp, done_means hd⟩
  error_means he := by_contra fun hd => he (done_means (Bool.not_eq_false _ ▸ hd)).1
  running_clean hs := absurd hp hs
  down_not_done := down_not_done
  words_fit := words_fit
  pixels_fit := pixels_fit
  pair_left _ hs := absurd hp hs
  words_done _ hs := by simp [hp] at hs
  index_starts_at_zero _ hs := by simp [hp, beforeData] at hs

/-- A running command goes on in the phase `p`, with chip-select as `p` wants it. The other hypotheses are what `Inv` says
of `p`. -/
theorem Inv.enter {s : State} (h : Inv s) (hs : s.phase ≠ .idle) {p : Phase} {c : Pin}
    (select : c = if inFrame p then .low else .high)
    (element_left : p = .datA ∨ p = .datB → s.idx < s.cnt)
    (dummy_is_read : p = .dmyA ∨ p = .dmyB ∨ p = .gate2 → s.op = .rdw)
    (pair_left : s.op = .wpp → p ≠ .desel → s.idx < s.cnt)
    (words_done : s.op ≠ .wpp → p = .desel → s.idx = s.cnt)
    (index_starts_at_zero : s.op ≠ .wpp → beforeData p = true → s.idx = 0#32) :
    Inv { s with phase := p, csn := c } :=
  { h with
    rest_unless_up := fun hl => absurd (h.rest_unless_up hl) hs
    high_outside_frame := fun _ hf => by simpa [hf] using select
    low_in_frame := fun hf => by simpa [hf] using select
    undriven_unless_up := fun hl => absurd (h.rest_unless_up hl) hs
    index_in_range := fun _ => h.index_in_range hs
    element_left
    dummy_is_read
    pixel_command := fun ho _ => h.pixel_command ho hs
    write_length := fun ho _ => h.write_length ho hs
    read_fits := fun ho _ => h.read_fits ho hs
    done_means := fun hd => absurd (h.done_means hd).1 hs
    running_clean := fun _ => h.running_clean hs
    pair_left := fun ho _ => pair_left ho
    words_done
    index_starts_at_zero }

/-- Between two phases before the data phase neither index nor operation has to be looked at again. -/
theorem Inv.enterBeforeData {s : State} (h : Inv s) (hs : beforeData s.phase = true) {p : Phase} {c : Pin}
    (hp : beforeData p = true)
    (select : c = if inFrame p then .low else .high)
    (dummy_is_read : p = .dmyA ∨ p = .dmyB ∨ p = .gate2 → s.op = .rdw) :
    Inv { s with phase := p, csn := c } :=
  h.enter (by rintro e; simp [e, beforeData] at hs) select
    (by rintro (rfl | rfl) <;> simp [beforeData] at hp) dummy_is_read
    (fun ho _ => h.pair_left ho (by rintro e; simp [e, beforeData] at hs) (by rintro e; simp [e, beforeData] at hs))
    (by rintro - rfl; simp [beforeData] at hp)
    (fun ho _ => h.index_starts_at_zero ho hs)

/-- The data phase is entered with an element left, and passed over when none is (R115). -/
theorem Inv.enterNextData {s : State} (h : Inv s) (hg : s.phase = .gate1 ∨ s.phase = .gate2) :
    Inv { s with phase := nextData s } := by
  have hs : s.phase ≠ .idle := by rcases hg with hg | hg <;> simp [hg]
  have low : s.csn = .low := h.low_in_frame (by rcases hg with hg | hg <;> simp [hg, inFrame])
  by_cases left : s.idx < s.cnt
  · rw [nextData, if_pos left]
    exact h.enter hs low (fun _ => left) (by simp) (fun _ _ => left) (by simp) (by simp [beforeData])
  · rw [nextData, if_neg left]
    exact h.enter hs low (by simp) (by simp) (by simp)
      (fun _ _ => BitVec.le_antisymm (h.index_in_range hs) (BitVec.not_lt.mp left)) (by simp [beforeData])

theorem execWaitrdy_keeps_inv {s t : State} (h : Inv s) (he : execWaitrdy s = .next t) : Inv t := by
  obtain ⟨p, exit, rfl⟩ := execWaitrdy_next he
  cases hr : rdyLevel s
  · exact { h with }
  suffices Inv { s with phase := p } from { this with }
  have select (hs : s.phase ≠ .idle) := h.csn_of_running hs
  cases hp : s.phase <;> simp only [gateExit, hp, Option.some.injEq, reduceCtorEq] at exit <;> subst exit
  case gate0 =>
    exact h.enterBeforeData (by simp [hp, beforeData]) rfl (by simpa [hp, inFrame] using select) (by simp)
  case gate1 =>
    split
    next ho =>
      exact h.enterBeforeData (by simp [hp, beforeData]) rfl (by simpa [hp, inFrame] using select) (fun _ => ho)
    next => exact h.enterNextData (.inl hp)
  case gate2 => exact h.enterNextData (.inr hp)

theorem execCslow_keeps_inv {s t : State} (h : Inv s) (he : execCslow s = .next t) : Inv t := by
  obtain ⟨hp, rfl⟩ := execCslow_next he
  have := h.enterBeforeData (p := .preHi) (c := .low) (by simp [hp, beforeData]) rfl rfl (by simp)
  exact { this with }

/-- CSHIGH ends the command when every element has moved, and else begins the next pixel frame (R126). -/
theorem execCshigh_keeps_inv {s t : State} (h : Inv s) (he : execCshigh s = .next t) : Inv t := by
  obtain ⟨hp, rfl⟩ := execCshigh_next he
  have hs : s.phase ≠ .idle := by simp [hp]
  obtain ⟨-, herr⟩ := h.running_clean hs
  by_cases more : s.op = .wpp ∧ s.idx < s.cnt
  · have ends : commandEnds s = false := by simp [commandEnds, more]
    have := h.enter (p := .gate0) (c := .high) hs rfl (by simp) (by simp) (fun _ _ => more.2) (by simp)
      (fun ho => absurd more.1 ho)
    simp only [ends, Bool.or_false]
    exact { this with }
  · have ends : commandEnds s = true := decide_eq_true more
    have moved : s.idx = s.cnt := by
      by_cases ho : s.op = .wpp
      · exact BitVec.le_antisymm (h.index_in_range hs) (BitVec.not_lt.mp fun hlt => more ⟨ho, hlt⟩)
      · exact h.words_done ho hp
    have hl : s.life = .up := by_contra fun hl => hs (h.rest_unless_up hl)
    simp only [ends, Bool.or_true, if_true]
    exact inv_of_idle rfl (fun _ => rfl) (fun hn => absurd hl hn) (fun _ => ⟨herr, moved⟩) (by simp [hl])
      h.words_fit h.pixels_fit

theorem bit_zero_clear_iff {x : Count} : x.getLsbD 0 = false ↔ x.toNat % 2 = 0 := by
  simp [BitVec.getLsbD, Nat.testBit_zero]

/-- With an element left there is room for it: `IDX` advances within `CNT`, in pairs for a pixel command (R125). -/
theorem Inv.advance_le {s : State} (h : Inv s) (hp : s.phase = .datB) : s.idx + elementSize s.op ≤ s.cnt := by
  have left := h.element_left (.inr hp)
  cases ho : s.op <;> simp only [elementSize]
  case wpp =>
    obtain ⟨-, hcnt, hidx, -⟩ := h.pixel_command ho (by simp [hp])
    rw [bit_zero_clear_iff] at hcnt hidx
    bv_omega
  all_goals bv_omega

/-- After an element: another word while there is one, or the end of the frame (R125). -/
theorem afterElement_cases (s : State) :
    (afterElement s = .datA ∧ s.op ≠ .wpp ∧ s.idx + elementSize s.op < s.cnt) ∨
    (afterElement s = .desel ∧ (s.op ≠ .wpp → s.cnt ≤ s.idx + elementSize s.op)) := by
  unfold afterElement
  split
  next more => exact .inl ⟨rfl, more⟩
  next last => exact .inr ⟨rfl, fun ho => BitVec.not_lt.mp fun hlt => last ⟨ho, hlt⟩⟩

/-- The second byte of an element moves `IDX` on; then the next element follows, or chip-select is de-asserted. -/
theorem dataSecond_keeps_inv {s : State} (h : Inv s) (hp : s.phase = .datB) (out : Byte) :
    Inv (dataSecond out s) := by
  have hs : s.phase ≠ .idle := by simp [hp]
  have bound := h.advance_le hp
  have after := afterElement_cases s
  exact { h with
    rest_unless_up := fun hl => absurd (h.rest_unless_up hl) hs
    high_outside_frame := fun _ hn => by rcases after with ⟨e, -⟩ | ⟨e, -⟩ <;> simp [dataSecond, e, inFrame] at hn
    low_in_frame := fun _ => h.low_in_frame (by simp [hp, inFrame])
    index_in_range := fun _ => bound
    element_left := by
      rcases after with ⟨-, -, left⟩ | ⟨e, -⟩
      · exact fun _ => left
      · simp [dataSecond, e]
    dummy_is_read := by rcases after with ⟨e, -⟩ | ⟨e, -⟩ <;> simp [dataSecond, e]
    pixel_command := fun ho _ => by
      obtain ⟨hpre, hcnt, hidx, hlen⟩ := h.pixel_command ho hs
      refine ⟨hpre, hcnt, ?_, hlen⟩
      have ho : s.op = .wpp := ho
      rw [bit_zero_clear_iff] at hidx ⊢
      simp only [dataSecond, ho, elementSize]
      bv_omega
    write_length := fun ho _ => h.write_length ho hs
    read_fits := fun ho _ => h.read_fits ho hs
    done_means := fun hd => absurd (h.done_means hd).1 hs
    running_clean := fun _ => h.running_clean hs
    pair_left := fun ho _ hd => by
      rcases after with ⟨-, hn, -⟩ | ⟨e, -⟩
      · exact absurd ho hn
      · exact absurd e hd
    words_done := fun ho hd => by
      rcases after with ⟨e, -⟩ | ⟨-, last⟩
      · simp [dataSecond, e] at hd
      · exact BitVec.le_antisymm bound (last ho)
    index_starts_at_zero := by rcases after with ⟨e, -⟩ | ⟨e, -⟩ <;> simp [dataSecond, e, beforeData] }

/-- An exchange moves on to the phase its table row names; the data bytes move the element on (R118 to R125). -/
theorem execXchg_keeps_inv {out : Byte} {s t : State} (h : Inv s) (he : execXchg out s = .next t) : Inv t := by
  have low (hf : inFrame s.phase = true) : (exchanged out s).csn = .low := h.low_in_frame hf
  have before {p : Phase} (hs : beforeData s.phase = true) (hf : inFrame s.phase = true) (hp : beforeData p = true)
      (hpf : inFrame p = true) (dummy : p = .dmyA ∨ p = .dmyB ∨ p = .gate2 → s.op = .rdw) :
      Inv { exchanged out s with phase := p } :=
    (h.exchanged out).enterBeforeData hs hp (by simpa [hpf] using low hf) dummy
  rcases execXchg_next he with ⟨hp, rfl⟩ | ⟨hp, rfl⟩ | ⟨hp, rfl⟩ | ⟨hp, rfl⟩ | ⟨hp, rfl⟩ | ⟨hp, -, rfl⟩
  · exact before (by rw [hp]; rfl) (by rw [hp]; rfl) rfl rfl (by simp)
  · exact before (by rw [hp]; rfl) (by rw [hp]; rfl) rfl rfl (by simp)
  · exact before (by rw [hp]; rfl) (by rw [hp]; rfl) rfl rfl (fun _ => h.dummy_is_read (.inl hp))
  · exact before (by rw [hp]; rfl) (by rw [hp]; rfl) rfl rfl (fun _ => h.dummy_is_read (.inr (.inl hp)))
  · have left := h.element_left (.inl hp)
    have := (h.exchanged out).enter (p := .datB) (by simp [hp]) (low (by simp [hp, inFrame])) (fun _ => left) (by simp)
      (fun _ _ => left) (by simp) (by simp [beforeData])
    exact { this with }
  · exact dataSecond_keeps_inv h hp out

/-- R115: every step of the engine keeps the invariants. -/
theorem engineTurn_keeps_inv {s t : State} (h : Inv s) (he : engineTurn s = .next t) : Inv t := by
  rcases engineTurn_next he with ⟨-, rfl⟩ | ⟨-, he⟩ | ⟨-, he⟩ | ⟨-, he⟩ | ⟨-, out, he⟩
  · exact h
  · exact execWaitrdy_keeps_inv h he
  · exact execCslow_keeps_inv h he
  · exact execCshigh_keeps_inv h he
  · exact execXchg_keeps_inv h he

/-- A refused command leaves the engine at rest, not done (R162). -/
theorem reject_keeps_inv {s : State} (h : Inv s) (hp : s.phase = .idle) (e : Err) : Inv (reject e s) :=
  inv_of_idle hp (fun hl => h.high_outside_frame hl (by simp [hp, inFrame])) h.undriven_unless_up (by simp) (by simp)
    h.words_fit h.pixels_fit

/-- The preconditions of R113 are what the invariants say of a running command at its first gate. -/
theorem accept_keeps_inv {op : Op} {pre : Word} {cnt : Count} {s : State} (h : Inv s) (hp : s.phase = .idle)
    (hpre : op = .wpp → pre = 0#16) (he : issueError op cnt s = .none) : Inv (accept op pre cnt s) := by
  obtain ⟨hl, words, reads, pixels⟩ := issueError_none he
  have high : s.csn = .high := h.high_outside_frame hl (by simp [hp, inFrame])
  by_cases empty : op = .wpp ∧ cnt = 0#32
  · exact inv_of_idle (by simp [empty]) (fun _ => high) (fun hn => absurd hl hn) (by simp [empty]) (by simp [hl])
      h.words_fit h.pixels_fit
  · have gate : (accept op pre cnt s).phase = .gate0 := if_neg empty
    exact { h with
      rest_unless_up := fun hn => absurd hl hn
      high_outside_frame := fun _ _ => high
      low_in_frame := by rw [gate]; simp [inFrame]
      index_in_range := fun _ => Nat.zero_le _
      element_left := by rw [gate]; simp
      dummy_is_read := by rw [gate]; simp
      pixel_command := fun ho _ => ⟨hpre ho, (pixels ho).1, by simp, (pixels ho).2⟩
      write_length := fun ho _ => words ho
      read_fits := fun ho _ => reads ho
      done_means := by simp [empty]
      error_means := by simp
      running_clean := by simp [empty]
      down_not_done := by simp [hl]
      pair_left := fun ho _ _ => (BitVec.pos_iff_ne_zero cnt).mpr fun hc => empty ⟨ho, hc⟩
      words_done := by rw [gate]; simp
      index_starts_at_zero := by simp }

theorem broughtUp_keeps_inv {s : State} (h : Inv s) (hl : s.life = .down) (ok : Bool) : Inv (broughtUp ok s) := by
  have hp : s.phase = .idle := h.rest_unless_up (by simp [hl])
  have hd : s.done = false := h.down_not_done hl
  have hz : s.csn = .z := h.undriven_unless_up (by simp [hl])
  cases ok <;> exact inv_of_idle hp (by simp [broughtUp, hl]) (by simp [broughtUp, hz]) (by simp [broughtUp, hd])
    (by simp [broughtUp, hd]) h.words_fit h.pixels_fit

theorem hostTurn_keeps_inv {e : HostEvent} {s t : State} (h : Inv s) (he : hostTurn e s = .next t) : Inv t := by
  rcases hostTurn_next he with ⟨d, -, hi⟩ | ⟨i, v, -, -, rfl⟩ | ⟨i, v, -, -, rfl⟩ | ⟨n, -, ⟨hp, hn⟩, rfl⟩ |
    ⟨n, -, ⟨hp, hn⟩, rfl⟩ | ⟨r, rfl⟩ | ⟨ok, -, hl, rfl⟩ | ⟨-, ⟨hl, hp⟩, rfl⟩ | ⟨-, rfl⟩
  case inl =>
    obtain ⟨hp, ⟨op, pre, cnt, hpre, hok, rfl⟩ | ⟨e, -, rfl⟩⟩ := issueWord_next hi
    · exact accept_keeps_inv h hp hpre hok
    · exact reject_keeps_inv h hp e
  · exact { h with }
  · exact { h with }
  · exact { h with words_fit := hn, write_length := fun _ hs => absurd hp hs }
  · exact { h with pixels_fit := hn, pixel_command := fun _ hs => absurd hp hs }
  · exact { h with }
  · exact { broughtUp_keeps_inv h hl ok with }
  · exact inv_of_idle hp (by simp) (fun _ => rfl) (fun hd => (h.done_means hd).2) (by simp) h.words_fit h.pixels_fit
  · exact inv_of_idle rfl (by simp) (fun _ => rfl) (by simp) (by simp) (Nat.zero_le _) (Nat.zero_le _)

end Sys2Proof.Safety

open Sys2Proof Sys2Proof.Machine Sys2Proof.Safety

/-- Settles O47: a step is a host event, a step of the engine, or a spent turn, and each keeps the invariants. -/
theorem stepKeepsTheInvariants : Obligations.StepKeepsTheInvariants := by
  intro s t h hstep
  rcases step_next hstep with ⟨e, ts, -, he⟩ | ⟨ts, he⟩ | ⟨ts, rfl⟩
  · exact hostTurn_keeps_inv (h.spend ts) he
  · exact engineTurn_keeps_inv (h.spend ts) he
  · exact h.spend ts

end

section
/-! Registers that nothing has written since reset (R41): two states that differ only in them take the same step. -/

namespace Sys2Proof.Safety

open Sys2Proof.Machine

theorem SameButUnwritten.refl (s : State) : SameButUnwritten s s where
  rest_equal := rfl
  running_equal _ := ⟨rfl, rfl, rfl, rfl⟩
  half_equal _ _ := rfl

theorem SameButUnwritten.exists_eq {s t : State} (h : SameButUnwritten s t) :
    ∃ o p c i r, t = { s with op := o, pre := p, cnt := c, idx := i, rxh := r } := ⟨_, _, _, _, _, h.rest_equal⟩

/-- While a command runs only `RXH` can differ. -/
theorem SameButUnwritten.exists_rxh {s t : State} (h : SameButUnwritten s t) (hs : s.phase ≠ .idle) :
    ∃ r, t = { s with rxh := r } := by
  obtain ⟨ho, hp, hc, hi⟩ := h.running_equal hs
  exact ⟨t.rxh, by simpa only [ho, hp, hc, hi] using h.rest_equal⟩

/-- `RXH` may differ wherever the second byte of a received word is not the next one. -/
theorem sameButUnwritten_rxh {s : State} {r : Byte} (h : s.phase = .datB → s.op = .rdw → r = s.rxh) :
    SameButUnwritten s { s with rxh := r } where
  rest_equal := rfl
  running_equal _ := ⟨rfl, rfl, rfl, rfl⟩
  half_equal := h

/-- What the sequencer sends never depends on `RXH`. -/
theorem fetch_rxh (s : State) (r : Byte) : fetch { s with rxh := r } = fetch s := rfl

theorem execXchg_sameButUnwritten {out : Byte} {s s' : State} {r : Byte}
    (half : s.phase = .datB → s.op = .rdw → r = s.rxh) (he : execXchg out s = .next s') :
    ∃ t', execXchg out { s with rxh := r } = .next t' ∧ SameButUnwritten s' t' := by
  obtain ⟨preHi, preLo, dmyA, dmyB⟩ := execXchg_of_plain (s := { s with rxh := r }) out
  rcases execXchg_next he with ⟨hp, rfl⟩ | ⟨hp, rfl⟩ | ⟨hp, rfl⟩ | ⟨hp, rfl⟩ | ⟨hp, rfl⟩ | ⟨hp, cell, rfl⟩
  · exact ⟨_, preHi hp, sameButUnwritten_rxh (by simp)⟩
  · exact ⟨_, preLo hp, sameButUnwritten_rxh (by simp)⟩
  · exact ⟨_, dmyA hp, sameButUnwritten_rxh (by simp)⟩
  · exact ⟨_, dmyB hp, sameButUnwritten_rxh (by simp)⟩
  · refine ⟨_, execXchg_of_datA (s := { s with rxh := r }) hp out, ⟨rfl, fun _ => ⟨rfl, rfl, rfl, rfl⟩, fun _ ho => ?_⟩⟩
    have ho : s.op = .rdw := ho
    simp [dataFirst, ho, sdiByte]
  · refine ⟨_, execXchg_of_datB (s := { s with rxh := r }) hp cell out, ?_⟩
    by_cases ho : s.op = .rdw
    · obtain rfl := half hp ho
      exact .refl _
    · refine ⟨?_, fun _ => ⟨rfl, rfl, rfl, rfl⟩, fun _ h => absurd h ho⟩
      simp only [dataSecond, ho, if_false]
      rfl

theorem gateExit_not_datB {s : State} {p : Phase} (h : gateExit s = some p) : s.phase ≠ .datB ∧ p ≠ .datB := by
  unfold gateExit nextData at h
  cases hp : s.phase <;> simp only [hp, reduceCtorEq, Option.some.injEq] at h <;> subst h
  case gate0 => simp
  case gate1 => split <;> simp; split <;> simp
  case gate2 => split <;> simp

/-- An instruction performed while a command runs reads `RXH` only for the second byte of a received word. -/
theorem exec_sameButUnwritten {i : Instr} {s s' : State} {r : Byte} (hs : s.phase ≠ .idle)
    (half : s.phase = .datB → s.op = .rdw → r = s.rxh) (he : exec i s = .next s') :
    ∃ t', exec i { s with rxh := r } = .next t' ∧ SameButUnwritten s' t' := by
  cases i with
  | wrw pre cnt => exact absurd (issue_next he).1 hs
  | rdw pre cnt => exact absurd (issue_next he).1 hs
  | wpp cnt => exact absurd (issue_next he).1 hs
  | waitrdy =>
    obtain ⟨p, exit, rfl⟩ := execWaitrdy_next he
    obtain ⟨here, there⟩ := gateExit_not_datB exit
    refine ⟨_, execWaitrdy_of_exit (s := { s with rxh := r }) exit, sameButUnwritten_rxh fun hb => ?_⟩
    cases hr : rdyLevel s <;> simp [hr, here, there] at hb
  | cslow =>
    obtain ⟨hp, rfl⟩ := execCslow_next he
    exact ⟨_, execCslow_of_sel (s := { s with rxh := r }) hp, sameButUnwritten_rxh (by simp)⟩
  | cshigh =>
    obtain ⟨hp, rfl⟩ := execCshigh_next he
    refine ⟨_, execCshigh_of_desel (s := { s with rxh := r }) hp, sameButUnwritten_rxh fun hb => ?_⟩
    cases hc : commandEnds s <;> simp [hc] at hb
  | xchg out => exact execXchg_sameButUnwritten half he

theorem engineTurn_sameButUnwritten {s t s' : State} (h : SameButUnwritten s t) (he : engineTurn s = .next s') :
    ∃ t', engineTurn t = .next t' ∧ SameButUnwritten s' t' := by
  by_cases hs : s.phase = .idle
  · rw [engineTurn_idle hs] at he
    cases he
    have ht : t.phase = .idle := by rw [h.rest_equal]; exact hs
    exact ⟨t, engineTurn_idle ht, h⟩
  obtain ⟨r, rfl⟩ := h.exists_rxh hs
  unfold engineTurn at he ⊢
  rw [fetch_rxh]
  cases hf : fetch s with
  | rest => simp only [hf] at he ⊢; cases he; exact ⟨_, rfl, h⟩
  | noCell => simp [hf] at he
  | word w =>
    cases hw : decodeUop10 w with
    | error e => simp [hf, hw] at he
    | ok i =>
      simp only [hf, hw] at he ⊢
      exact exec_sameButUnwritten hs h.half_equal he

/-- A command latches its fields, and afterwards only `RXH` can differ. -/
theorem issueWord_sameButUnwritten {d : BitVec 64} {s t s' : State} (h : SameButUnwritten s t)
    (he : issueWord d s = .next s') : ∃ t', issueWord d t = .next t' ∧ SameButUnwritten s' t' := by
  obtain ⟨o, p, c, i, r, rfl⟩ := h.exists_eq
  have cause : issueCause d { s with op := o, pre := p, cnt := c, idx := i, rxh := r } = issueCause d s := rfl
  obtain ⟨hp, -⟩ := issueWord_next he
  rw [issueWord_of_idle hp] at he
  cases he
  refine ⟨_, issueWord_of_idle hp, ?_⟩
  rw [cause]
  by_cases hc : issueCause d s = .none
  · rw [if_pos hc, if_pos hc]
    exact sameButUnwritten_rxh (by simp; split <;> simp)
  · rw [if_neg hc, if_neg hc]
    exact ⟨rfl, fun hn => absurd hp hn, by simp [hp]⟩

theorem guarded_sameButUnwritten {g : Prop} [Decidable g] {u v s' : State} (he : guarded g u = .next s')
    (h : SameButUnwritten u v) : ∃ t', guarded g v = .next t' ∧ SameButUnwritten s' t' := by
  obtain ⟨hg, rfl⟩ := guarded_next he
  exact ⟨v, if_pos hg, h⟩

/-- Besides the issue no event of the host reads the five registers, and only a reset writes them. -/
theorem hostTurn_sameButUnwritten {e : HostEvent} {s t s' : State} (h : SameButUnwritten s t)
    (he : hostTurn e s = .next s') : ∃ t', hostTurn e t = .next t' ∧ SameButUnwritten s' t' := by
  have running := h.running_equal
  have half := h.half_equal
  obtain ⟨o, p, c, i, r, rfl⟩ := h.exists_eq
  cases e
  case issue d => exact issueWord_sameButUnwritten h he
  case readSTATUS => cases he; exact ⟨_, rfl, rfl, running, half⟩
  case reset => cases he; exact ⟨_, rfl, .refl _⟩
  case bringup ok =>
    cases ok <;> exact guarded_sameButUnwritten (g := s.life = .down) he ⟨rfl, running, half⟩
  case teardown => exact guarded_sameButUnwritten (g := s.life = .up ∧ s.phase = .idle) he ⟨rfl, running, half⟩
  all_goals exact guarded_sameButUnwritten he ⟨rfl, running, half⟩

theorem SameButUnwritten.spend {s t : State} (h : SameButUnwritten s t) (ts : List Turn) :
    SameButUnwritten { s with turns := ts } { t with turns := ts } where
  rest_equal := by rw [h.rest_equal]
  running_equal := h.running_equal
  half_equal := h.half_equal

end Sys2Proof.Safety

open Sys2Proof Sys2Proof.Machine Sys2Proof.Safety

/-- Settles O55: both states have the same turn, and the host's events and the engine's steps preserve the relation. -/
theorem unwrittenRegistersNeverMatter : Obligations.UnwrittenRegistersNeverMatter := by
  intro s t s' h hstep
  have turns : t.turns = s.turns := by rw [h.rest_equal]
  cases hts : s.turns with
  | nil =>
    rw [step_of_no_turn hts] at hstep
    rw [step_of_no_turn (turns.trans hts)]
    exact engineTurn_sameButUnwritten h hstep
  | cons turn ts =>
    cases turn with
    | host e =>
      rw [step_of_host hts] at hstep
      rw [step_of_host (turns.trans hts)]
      exact hostTurn_sameButUnwritten (h.spend ts) hstep
    | engine =>
      rw [step_of_engine hts] at hstep
      rw [step_of_engine (turns.trans hts)]
      exact engineTurn_sameButUnwritten (h.spend ts) hstep
    | wait =>
      have moving : busy t = busy s := by rw [h.rest_equal]; rfl
      rw [step_of_wait hts] at hstep
      rw [step_of_wait (turns.trans hts), moving]
      by_cases hb : busy s = true
      · rw [if_pos hb] at hstep ⊢
        exact engineTurn_sameButUnwritten h hstep
      · rw [if_neg hb] at hstep ⊢
        cases hstep
        exact ⟨_, rfl, h.spend ts⟩

end

section
/-! The host's view of the state: `STATUS`, the register numbers, the buffer cells and lengths, and the reset values. -/

open Sys2Proof Sys2Proof.Machine Sys2Proof.Safety

/-- Settles O21: each field is cut out of the concatenation that `status` is. -/
theorem statusHasItsLayout : Obligations.StatusHasItsLayout := by
  intro s
  refine ⟨?_, ?_, ?_, ?_, ?_, rfl, rfl, fun _ => rfl⟩
  · exact BitVec.extractLsb'_append_eq_right
  · rw [status, BitVec.getLsbD_append, BitVec.getLsbD_append]
    simp [busy]
  · simp only [status, BitVec.getLsbD_append]
    simp
  · ext i hi
    simp [status]
    grind
  · rw [status, BitVec.append_assoc, BitVec.append_assoc, BitVec.append_assoc]
    exact BitVec.extractLsb'_append_eq_left

/-- Settles O22: by the register number; the low half of a value is its truncation to 32 bits. -/
theorem hostRegisterNumbersNameFiveRegisters : Obligations.HostRegisterNumbersNameFiveRegisters := by
  intro n v
  have low : v.setWidth 32 = v.extractLsb 31 0 := by ext i hi; simp
  match n with
  | 0 => exact ⟨rfl, rfl⟩
  | 1 => exact ⟨rfl, rfl⟩
  | 2 => exact ⟨by simp [portWrite, low], rfl⟩
  | 3 => exact ⟨by simp [portWrite, low], rfl⟩
  | 4 => exact ⟨rfl, rfl⟩
  | n + 5 => simp [portWrite, portRead]

/-- Settles O23: the guard of the write holds, and a cell reads back through the laws of `writeCell`. -/
theorem hostWriteChangesOneCell : Obligations.HostWriteChangesOneCell :=
  ⟨fun s i v hp hi => ⟨{ s with txw := writeCell s.txw i v }, if_pos ⟨hp, hi⟩, rfl, readCell_writeCell_same _ _ i v,
      fun _ hj => readCell_writeCell_other _ _ hj v⟩,
    fun s i v hp hi => ⟨{ s with txp := writeCell s.txp i v }, if_pos ⟨hp, hi⟩, rfl, readCell_writeCell_same _ _ i v,
      fun _ hj => readCell_writeCell_other _ _ hj v⟩⟩

/-- Settles O24: at rest and within the capacity the guard of each event holds, and the event is its effect. -/
theorem hostReadsAndLengthWrites : Obligations.HostReadsAndLengthWrites := fun _ hp =>
  ⟨fun _ hn => if_pos ⟨hp, hn⟩, fun _ hn => if_pos ⟨hp, hn⟩, fun _ hi => if_pos ⟨hp, hi⟩, fun _ hi => if_pos ⟨hp, hi⟩,
    fun _ hi => if_pos ⟨hp, hi⟩, if_pos hp, if_pos hp, if_pos hp⟩

/-- Settles O14: the values `State.atReset` gives; neither pin is driven, since the bus is not up. -/
theorem resetLeavesTheStatedValues : Obligations.ResetLeavesTheStatedValues :=
  ⟨rfl, rfl, rfl, rfl, rfl, rfl, rfl, rfl, rfl, rfl, rfl, rfl⟩

/-- Settles O46: at rest `Inv` asks for little, the buffers are empty, and an empty history is legal with no frame open. -/
theorem invariantsHoldAtReset : Obligations.InvariantsHoldAtReset := by
  intro levels bytes turns
  refine ⟨?_, ⟨Memory.wf_nil _, Memory.wf_nil _, Memory.wf_nil _⟩, ⟨rfl, ?_, ?_⟩, ⟨rfl, rfl⟩⟩
  · exact inv_of_idle rfl nofun (fun _ => rfl) nofun (fun _ => rfl) (Nat.zero_le _) (Nat.zero_le _)
  · exact nofun
  · exact nofun

end

section
/-! Bytes on the line and in a word (R53, R54, R102): the shift register bit by bit, and the halves of a joined word. -/

namespace Sys2Proof.Machine

@[simp] theorem hi_append (a b : Byte) : hi (a ++ b) = a := BitVec.extractLsb'_append_eq_left

@[simp] theorem lo_append (a b : Byte) : lo (a ++ b) = b := BitVec.extractLsb'_append_eq_right

theorem getLsbD_shiftIn_zero (acc : Byte) (bit : Bool) : (shiftIn acc bit).getLsbD 0 = bit := by
  cases bit <;> simp [shiftIn]

theorem getLsbD_shiftIn_succ (acc : Byte) (bit : Bool) {j : Nat} (hj : j + 1 < 8) :
    (shiftIn acc bit).getLsbD (j + 1) = acc.getLsbD j := by
  have hj' : j < 8 := by omega
  cases bit <;> simp [shiftIn, hj, BitVec.getLsbD_eq_getElem hj']

theorem byteOfLine_concat (bits : List Bool) (bit : Bool) :
    byteOfLine (bits ++ [bit]) = shiftIn (byteOfLine bits) bit := List.foldl_concat ..

/-- The last bit sampled is bit 0 of the byte, the one before it bit 1, and so on (R102). -/
theorem getLsbD_byteOfLine (bits : List Bool) {j : Nat} (hj : j < 8) :
    (byteOfLine bits).getLsbD j = bits.reverse.getD j false := by
  induction bits using List.reverseRecOn generalizing j with
  | nil => simp [byteOfLine]
  | append_singleton bits bit ih =>
    rw [byteOfLine_concat, List.reverse_concat]
    cases j with
    | zero => exact getLsbD_shiftIn_zero _ bit
    | succ j => rw [getLsbD_shiftIn_succ _ _ hj, ih (by omega), List.getD_cons_succ]

end Sys2Proof.Machine

open Sys2Proof Sys2Proof.Machine

/-- Settles O7: `joinBytes` is concatenation, and `hi` and `lo` cut it where it was joined. -/
theorem joinedBytesAreHighAndLow : Obligations.JoinedBytesAreHighAndLow := by
  intro a b
  rw [joinBytes_eq_append]
  exact ⟨rfl, hi_append a b, lo_append a b⟩

/-- Settles O8: the sent bits are listed from bit 7 down; the received ones are read from the last sample up. -/
theorem exchangeBitsGoMostSignificantFirst : Obligations.ExchangeBitsGoMostSignificantFirst := by
  refine ⟨fun out k h => by simp [lineBits], fun out => by simp [lineBits], fun bits hlen k hk => ?_⟩
  have period : bits.length - 1 - (7 - k) = k := by omega
  have inRange : 7 - k < bits.reverse.length := by rw [List.length_reverse]; omega
  rw [getLsbD_byteOfLine bits (by omega), List.getD_eq_getElem _ _ inRange, List.getElem_reverse]
  simp only [period]

end

section
/-! Indices and cells (R50, R60, R68): a data step without a cell stops the engine, so a step that answers stays within
the capacities, and under the invariants of R42 every index names a cell. -/

namespace Sys2Proof.Machine

theorem running_of_data {s : State} (hp : s.phase = .datA ∨ s.phase = .datB) : s.phase ≠ .idle := by
  rcases hp with hp | hp <;> simp [hp]

/-- A gate polls and goes on, whatever its sample reads (R91). -/
theorem gate_answers {s : State} (hp : s.phase = .gate0 ∨ s.phase = .gate1 ∨ s.phase = .gate2) :
    ∃ t, engineTurn s = .next t := by
  rw [engineTurn_gate hp]
  obtain ⟨p, exit⟩ : ∃ p, gateExit s = some p := by rcases hp with hp | hp | hp <;> simp [gateExit, hp]
  exact ⟨_, execWaitrdy_of_exit exit⟩

/-- A received word needs a cell to be stored in (R60). -/
theorem engineTurn_of_unstorable {s : State} (hp : s.phase = .datB) (ho : s.op = .rdw)
    (noCell : ¬ s.idx < s.params.rcap) : engineTurn s = .fault .noSuchCell := by
  rw [engineTurn_datB hp]
  simp only [ho, execXchg, hp, BitVec.not_lt.mp noCell, and_self, if_true]

end Sys2Proof.Machine

namespace Sys2Proof.Safety

open Sys2Proof.Machine

theorem BuffersWf.spend {s : State} (h : BuffersWf s) (ts : List Turn) : BuffersWf { s with turns := ts } := { h with }

/-- A stored word went to a cell below the capacity, since the step answered; nothing else moves a buffer. -/
theorem engineTurn_keeps_buffersWf {s t : State} (h : BuffersWf s) (he : engineTurn s = .next t) : BuffersWf t := by
  have frame := engineTurn_frame he
  refine ⟨?_, ?_, ?_⟩ <;> rw [frame.params]
  · rw [frame.txw]; exact h.txw
  · rw [frame.txp]; exact h.txp
  · rcases engineTurn_rxw he with same | ⟨v, hp, ho, stored⟩
    · rw [same]; exact h.rxw
    · have cell : s.idx < s.params.rcap := by_contra fun noCell => by
        rw [engineTurn_of_unstorable hp ho noCell] at he
        cases he
      rw [stored]
      exact writeCell_wf h.rxw cell v

/-- The host writes a cell only under its guard (R152); reset empties the buffers. -/
theorem hostTurn_keeps_buffersWf {e : HostEvent} {s t : State} (h : BuffersWf s) (he : hostTurn e s = .next t) :
    BuffersWf t := by
  rcases hostTurn_next he with ⟨d, -, hi⟩ | ⟨i, v, -, ⟨-, cell⟩, rfl⟩ | ⟨i, v, -, ⟨-, cell⟩, rfl⟩ | ⟨n, -, -, rfl⟩ |
    ⟨n, -, -, rfl⟩ | ⟨r, rfl⟩ | ⟨ok, -, -, rfl⟩ | ⟨-, -, rfl⟩ | ⟨-, rfl⟩
  case inl =>
    obtain ⟨-, ⟨op, pre, cnt, -, -, rfl⟩ | ⟨e, -, rfl⟩⟩ := issueWord_next hi
    · exact { h with }
    · exact { h with }
  · exact { h with txw := writeCell_wf h.txw cell v }
  · exact { h with txp := writeCell_wf h.txp cell v }
  · exact { h with }
  · exact { h with }
  · exact { h with }
  · cases ok <;> exact { h with }
  · exact { h with }
  · exact ⟨Memory.wf_nil _, Memory.wf_nil _, Memory.wf_nil _⟩

theorem Inv.word_has_cell {s : State} (h : Inv s) (hp : s.phase = .datA ∨ s.phase = .datB) (ho : s.op = .wrw) :
    s.idx < s.params.wcap := by
  have len : s.cnt = s.wlen := h.write_length ho (running_of_data hp)
  exact Nat.lt_of_lt_of_le (len ▸ h.element_left hp) h.words_fit

theorem Inv.received_word_has_cell {s : State} (h : Inv s) (hp : s.phase = .datA ∨ s.phase = .datB)
    (ho : s.op = .rdw) : s.idx < s.params.rcap :=
  Nat.lt_of_lt_of_le (h.element_left hp) (h.read_fits ho (running_of_data hp))

/-- `CNT` and `IDX` are even, so where one pixel is left a pair is. -/
theorem Inv.pixels_have_cells {s : State} (h : Inv s) (hp : s.phase = .datA ∨ s.phase = .datB) (ho : s.op = .wpp) :
    s.idx < s.params.pcap ∧ s.idx + 1#32 < s.params.pcap := by
  obtain ⟨-, hcnt, hidx, hlen⟩ := h.pixel_command ho (running_of_data hp)
  have left := h.element_left hp
  have fits := h.pixels_fit
  rw [bit_zero_clear_iff] at hcnt hidx
  constructor <;> bv_omega

theorem Inv.datA_answers {s : State} (h : Inv s) (hp : s.phase = .datA) : ∃ t, engineTurn s = .next t := by
  rw [engineTurn_datA hp]
  cases ho : s.op <;> simp only
  case wrw => rw [if_pos (h.word_has_cell (.inl hp) ho)]; exact ⟨_, execXchg_of_datA hp _⟩
  case rdw => exact ⟨_, execXchg_of_datA hp _⟩
  case wpp => rw [if_pos (h.pixels_have_cells (.inl hp) ho).2]; exact ⟨_, execXchg_of_datA hp _⟩

theorem Inv.datB_answers {s : State} (h : Inv s) (hp : s.phase = .datB) : ∃ t, engineTurn s = .next t := by
  have storable : ¬ (s.op = .rdw ∧ s.params.rcap ≤ s.idx) := fun ⟨ho, noCell⟩ =>
    BitVec.not_lt.mpr noCell (h.received_word_has_cell (.inr hp) ho)
  rw [engineTurn_datB hp]
  cases ho : s.op <;> simp only
  case wrw => rw [if_pos (h.word_has_cell (.inr hp) ho)]; exact ⟨_, execXchg_of_datB hp storable _⟩
  case rdw => exact ⟨_, execXchg_of_datB hp storable _⟩
  case wpp => rw [if_pos (h.pixels_have_cells (.inr hp) ho).1]; exact ⟨_, execXchg_of_datB hp storable _⟩

end Sys2Proof.Safety

open Sys2Proof Sys2Proof.Machine Sys2Proof.Safety

/-- Settles O41: a fetch without a cell stops before the exchange, a store without one in it. -/
theorem indexWithoutACellStops : Obligations.IndexWithoutACellStops := by
  refine fun s => ⟨fun hp ho noCell => ?_, engineTurn_of_unstorable, fun hp ho noCell => ?_, fun hp ho noCell => ?_⟩
  · rcases hp with hp | hp
    · simp only [engineTurn_datA hp, ho, if_neg noCell]
    · simp only [engineTurn_datB hp, ho, if_neg noCell]
  · simp only [engineTurn_datA hp, ho, if_neg noCell]
  · simp only [engineTurn_datB hp, ho, if_neg noCell]

/-- Settles O48: a step is a host event, a step of the engine, or a spent turn, and each keeps the buffers. -/
theorem stepKeepsTheBuffersCanonical : Obligations.StepKeepsTheBuffersCanonical := by
  intro s t h hstep
  rcases step_next hstep with ⟨e, ts, -, he⟩ | ⟨ts, he⟩ | ⟨ts, rfl⟩
  · exact hostTurn_keeps_buffersWf (h.spend ts) he
  · exact engineTurn_keeps_buffersWf (h.spend ts) he
  · exact h.spend ts

/-- Settles O50: by the phase; only the data phases can stop, and there the index names a cell. -/
theorem engineNeverStops : Obligations.EngineNeverStops := by
  intro s h
  cases hp : s.phase with
  | idle => exact ⟨s, engineTurn_idle hp⟩
  | gate0 => exact gate_answers (.inl hp)
  | sel => exact ⟨_, (engineTurn_sel hp).trans (execCslow_of_sel hp)⟩
  | preHi => exact ⟨_, (engineTurn_preHi hp).trans ((execXchg_of_plain _).1 hp)⟩
  | preLo => exact ⟨_, (engineTurn_preLo hp).trans ((execXchg_of_plain _).2.1 hp)⟩
  | gate1 => exact gate_answers (.inr (.inl hp))
  | dmyA => exact ⟨_, (engineTurn_dummy (.inl hp)).trans ((execXchg_of_plain _).2.2.1 hp)⟩
  | dmyB => exact ⟨_, (engineTurn_dummy (.inr hp)).trans ((execXchg_of_plain _).2.2.2 hp)⟩
  | gate2 => exact gate_answers (.inr (.inr hp))
  | datA => exact h.datA_answers hp
  | datB => exact h.datB_answers hp
  | desel => exact ⟨_, (engineTurn_desel hp).trans (execCshigh_of_desel hp)⟩

end

section
/-! Decoding and encoding are inverse (R70, R71, R73, R79, R84): a word is rebuilt from its fields, a word with the fields
of a command or of a micro-operation is the word of an instruction, and the rows of the opcode map are read as fields. -/

namespace Sys2Proof

open Sys2Proof.Machine

theorem descriptor_fields (d : BitVec 64) : descriptor (fieldOp d) (fieldRsv d) (fieldPre d) (fieldCnt d) = d := by
  have high : fieldOp d ++ fieldRsv d = d.extractLsb' 48 16 :=
    BitVec.extractLsb'_append_extractLsb'_eq_extractLsb' rfl
  have upper : d.extractLsb' 48 16 ++ fieldPre d = d.extractLsb' 32 32 :=
    BitVec.extractLsb'_append_extractLsb'_eq_extractLsb' rfl
  rw [descriptor, high, upper]
  exact BitVec.extractLsb'_append_extractLsb' (w := 32) (len := 32)

theorem uopWord_fields (w : BitVec 10) : uopWord (uopCode w) (uopByte w) = w :=
  BitVec.extractLsb'_append_extractLsb' (w := 2) (len := 8)

/-- R79: the fields with which a micro-operation word names one. -/
abbrev LegalMicroWord (w : BitVec 10) : Prop := uopCode w = 3#2 ∨ uopByte w = 0#8

/-- A descriptor with legal fields is the word of the command of its `OP` (R70, R71). -/
theorem exists_encode_of_legal {d : BitVec 64} (hd : ¬ IllegalFields d) : ∃ i, encode i = .cmd64 d := by
  simp only [IllegalFields, not_or, not_and, not_not] at hd
  obtain ⟨h0, hr, hp⟩ := hd
  have hfields := descriptor_fields d
  rw [hr] at hfields
  by_cases h1 : fieldOp d = 1#2
  · exact ⟨.wrw (fieldPre d) (fieldCnt d), by rw [encode, ← h1, hfields]⟩
  by_cases h2 : fieldOp d = 2#2
  · exact ⟨.rdw (fieldPre d) (fieldCnt d), by rw [encode, ← h2, hfields]⟩
  have h3 := opCode_exhausted h0 h1 h2
  exact ⟨.wpp (fieldCnt d), by rw [encode, ← h3, ← hp h3, hfields]⟩

/-- A descriptor with legal fields decodes to the command of its `OP` (R71, R84). -/
theorem decodeCmd64_of_legal {d : BitVec 64} (hd : ¬ IllegalFields d) :
    (fieldOp d = 1#2 → decodeCmd64 d = .ok (.wrw (fieldPre d) (fieldCnt d))) ∧
    (fieldOp d = 2#2 → decodeCmd64 d = .ok (.rdw (fieldPre d) (fieldCnt d))) ∧
    (fieldOp d = 3#2 → decodeCmd64 d = .ok (.wpp (fieldCnt d))) := by
  simp only [IllegalFields, not_or, not_and, not_not] at hd
  obtain ⟨-, hr, hp⟩ := hd
  refine ⟨fun hop => ?_, fun hop => ?_, fun hop => ?_⟩
  · simp [decodeCmd64, hop, hr]
  · simp [decodeCmd64, hop, hr]
  · simp [decodeCmd64, hop, hr, hp hop]

/-- A micro-operation word with legal fields is the word of the micro-operation of its code (R79). -/
theorem exists_encode_of_legalMicroWord {w : BitVec 10} (hw : LegalMicroWord w) : ∃ i, encode i = .uop10 w := by
  have hfields := uopWord_fields w
  by_cases h3 : uopCode w = 3#2
  · exact ⟨.xchg (uopByte w), by rw [encode, ← h3, hfields]⟩
  rw [hw.resolve_left h3] at hfields
  by_cases h0 : uopCode w = 0#2
  · exact ⟨.waitrdy, by rw [encode, ← h0, hfields]⟩
  by_cases h1 : uopCode w = 1#2
  · exact ⟨.cslow, by rw [encode, ← h1, hfields]⟩
  have h2 : uopCode w = 2#2 := not_not.mp fun h2 => h3 (opCode_exhausted h0 h1 h2)
  exact ⟨.cshigh, by rw [encode, ← h2, hfields]⟩

theorem legal_of_decodeCmd64 {d : BitVec 64} {i : Instr} (h : decodeCmd64 d = .ok i) : ¬ IllegalFields d := by
  intro hd
  obtain ⟨e, he⟩ := decodeCmd64_of_illegal hd
  simp [h] at he

theorem legalMicroWord_of_decodeUop10 {w : BitVec 10} {i : Instr} (h : decodeUop10 w = .ok i) :
    LegalMicroWord w := by
  by_contra hw
  obtain ⟨hcode, hbyte⟩ := not_or.mp hw
  rw [decodeUop10, if_neg hcode, if_pos hbyte] at h
  cases h

/-- Only words of instructions decode. -/
theorem exists_encode_of_decode {c : Code} {i : Instr} (h : decode c = .ok i) : ∃ j, encode j = c :=
  match c with
  | .cmd64 _ => exists_encode_of_legal (legal_of_decodeCmd64 h)
  | .uop10 _ => exists_encode_of_legalMicroWord (legalMicroWord_of_decodeUop10 h)

/-- What decodes is the word of what it decodes to: it is the word of some instruction, and that one decodes to itself. -/
theorem encode_of_decode {c : Code} {i : Instr} (h : decode c = .ok i) : encode i = c := by
  obtain ⟨j, rfl⟩ := exists_encode_of_decode h
  rw [decode_encode] at h
  cases h
  rfl

theorem encode_wellFormed (i : Instr) : (encode i).wellFormed = true := by
  cases i with
  | wrw pre cnt => exact Laws.EncodesWellFormed.wrw pre cnt
  | rdw pre cnt => exact Laws.EncodesWellFormed.rdw pre cnt
  | wpp cnt => exact Laws.EncodesWellFormed.wpp cnt
  | waitrdy => exact Laws.EncodesWellFormed.waitrdy
  | cslow => exact Laws.EncodesWellFormed.cslow
  | cshigh => exact Laws.EncodesWellFormed.cshigh
  | xchg out => exact Laws.EncodesWellFormed.xchg out

/-- The rows of the opcode map by their fields (R73): each compares all of `OP` and of `RSV`, which is zero, and the row
of WPP also all of `PRE`, which is zero. -/
theorem opcodeMap_fields : ∀ r ∈ opcodeMap,
    fieldOp r.maskBits = .allOnes 2 ∧ fieldRsv r.maskBits = .allOnes 14 ∧
      fieldOp r.matchBits ≠ 0#2 ∧ fieldRsv r.matchBits = 0#14 ∧
      (fieldOp r.matchBits = 3#2 → fieldPre r.maskBits = .allOnes 16 ∧ fieldPre r.matchBits = 0#16) := by
  decide

/-- No two rows have one operation. -/
theorem opcodeMap_op_injective : ∀ r ∈ opcodeMap, ∀ r' ∈ opcodeMap,
    fieldOp r.matchBits = fieldOp r'.matchBits → r = r' := by
  decide

/-- A field that a mask keeps whole has, in every word of the row, the value it has in the row's match. -/
theorem field_of_selects {r : OpcodeRow} {d : BitVec 64} (h : r.selects d = true) (upper lower : Nat)
    (whole : r.maskBits.extractLsb upper lower = .allOnes _) :
    d.extractLsb upper lower = r.matchBits.extractLsb upper lower := by
  rw [← beq_iff_eq.mp h, BitVec.extractLsb_and, whole, BitVec.and_allOnes]

theorem fieldOp_of_selects {r : OpcodeRow} {d : BitVec 64} (hr : r ∈ opcodeMap) (h : r.selects d = true) :
    fieldOp d = fieldOp r.matchBits :=
  field_of_selects h 63 62 (opcodeMap_fields r hr).1

theorem legal_of_selects {r : OpcodeRow} {d : BitVec 64} (hr : r ∈ opcodeMap) (h : r.selects d = true) :
    ¬ IllegalFields d := by
  obtain ⟨-, hrsv, hop0, hrsv0, hpre⟩ := opcodeMap_fields r hr
  have hop := fieldOp_of_selects hr h
  rintro (h0 | hr1 | ⟨h3, hp⟩)
  · exact hop0 (hop ▸ h0)
  · exact hr1 ((field_of_selects h 61 48 hrsv).trans hrsv0)
  · obtain ⟨whole, hpre0⟩ := hpre (hop ▸ h3)
    exact hp ((field_of_selects h 47 32 whole).trans hpre0)

/-- Every well-formed word is the word of an instruction. -/
theorem exists_encode_of_wellFormed {c : Code} (h : c.wellFormed = true) : ∃ i, encode i = c := by
  cases c with
  | cmd64 d =>
    obtain ⟨r, hr, hsel⟩ := List.any_eq_true.mp h
    exact exists_encode_of_legal (legal_of_selects hr hsel)
  | uop10 w =>
    rw [Code.wellFormed, uopWellFormed, Bool.or_eq_true, beq_iff_eq, beq_iff_eq] at h
    exact exists_encode_of_legalMicroWord h

/-- The decoder, written from the fields, and the opcode map agree. -/
theorem decodes_iff_wellFormed (c : Code) : (∃ i, decode c = .ok i) ↔ c.wellFormed = true := by
  constructor
  · rintro ⟨i, h⟩
    exact encode_of_decode h ▸ encode_wellFormed i
  · intro h
    obtain ⟨i, rfl⟩ := exists_encode_of_wellFormed h
    exact ⟨i, decode_encode i⟩

theorem decodeTableWord_of_encode {nbits w : Nat} {i : Instr} (h : tableCode nbits w = some (encode i)) :
    decodeTableWord nbits w = some i := by
  simp only [decodeTableWord, h, decode_encode, Except.toOption]

end Sys2Proof

open Sys2Proof Sys2Proof.Machine

/-- Settles O1: by the constructor, each field of the word being what it was built from. -/
theorem encodedInstructionDecodesToItself : Obligations.EncodedInstructionDecodesToItself := decode_encode

/-- Settles O2: a word that decodes has legal fields, and a word with legal fields is the word of an instruction. -/
theorem decodedWordIsTheWordOfItsInstruction : Obligations.DecodedWordIsTheWordOfItsInstruction :=
  fun _ _ => encode_of_decode

/-- Settles O3: the decoder and the map agree, and a word selected by two rows has the operation of both. -/
theorem decoderAcceptsExactlyTheOpcodeMap : Obligations.DecoderAcceptsExactlyTheOpcodeMap := by
  refine ⟨decodes_iff_wellFormed, fun d r r' hr hr' h h' => opcodeMap_op_injective r hr r' hr' ?_⟩
  rw [← fieldOp_of_selects hr h, fieldOp_of_selects hr' h']

/-- Settles O4: the fields are illegal, or the decoder answers the command of the operation. -/
theorem descriptorDecodesByItsFields : Obligations.DescriptorDecodesByItsFields := by
  intro d
  split
  next hd => exact decodeCmd64_of_illegal hd
  next hd => exact decodeCmd64_of_legal hd

/-- Settles O5: the bits of each word are those of its instruction's word, which decodes to it. -/
theorem wordsWrittenOutFromTheTablesDecode : Obligations.WordsWrittenOutFromTheTablesDecode := by
  refine ⟨?_, ?_, ?_, ?_, ?_, ?_, ?_⟩ <;> exact decodeTableWord_of_encode (by decide)

end

section
/-! What the sequencer forms (R79): in every phase the word of a micro-operation. -/

namespace Sys2Proof.Machine

theorem encode_of_xchgWord {b : Byte} {w : BitVec 10} (h : xchgWord b = .word w) : encode (.xchg b) = .uop10 w := by
  cases h
  rfl

/-- A word formed from a cell that may not exist is that of an exchange (R60). -/
theorem exists_encode_of_cell {cell : Prop} [Decidable cell] {b : Byte} {w : BitVec 10}
    (h : (if cell then xchgWord b else .noCell) = .word w) : ∃ i, encode i = .uop10 w := by
  split at h
  · exact ⟨_, encode_of_xchgWord h⟩
  · cases h

theorem fetchFirst_word {s : State} {w : BitVec 10} (h : fetchFirst s = .word w) : ∃ i, encode i = .uop10 w := by
  unfold fetchFirst at h
  split at h
  · exact exists_encode_of_cell h
  · exact ⟨_, encode_of_xchgWord h⟩
  · exact exists_encode_of_cell h

theorem fetchSecond_word {s : State} {w : BitVec 10} (h : fetchSecond s = .word w) : ∃ i, encode i = .uop10 w := by
  unfold fetchSecond at h
  split at h
  · exact exists_encode_of_cell h
  · exact ⟨_, encode_of_xchgWord h⟩
  · exact exists_encode_of_cell h

/-- A word the sequencer forms is the word of an instruction: the micro-operation of the phase. -/
theorem fetch_word {s : State} {w : BitVec 10} (h : fetch s = .word w) : ∃ i, encode i = .uop10 w := by
  unfold fetch at h
  cases hp : s.phase <;> simp only [hp] at h
  case idle => cases h
  case gate0 | gate1 | gate2 => cases h; exact ⟨.waitrdy, rfl⟩
  case sel => cases h; exact ⟨.cslow, rfl⟩
  case preHi | preLo | dmyA | dmyB => exact ⟨_, encode_of_xchgWord h⟩
  case datA => exact fetchFirst_word h
  case datB => exact fetchSecond_word h
  case desel => cases h; exact ⟨.cshigh, rfl⟩

end Sys2Proof.Machine

open Sys2Proof Sys2Proof.Machine

/-- Settles O11: a word the sequencer forms is the word of an instruction, so it decodes, and its fields are legal. -/
theorem sequencerFormsOnlyLegalWords : Obligations.SequencerFormsOnlyLegalWords := by
  intro s w h
  obtain ⟨i, hi⟩ := fetch_word h
  have hd : decodeUop10 w = .ok i := (congrArg decode hi).symm.trans (decode_encode i)
  exact ⟨⟨i, hd⟩, (legalMicroWord_of_decodeUop10 hd).resolve_left⟩

/-- Settles O26: at rest an issue with illegal fields is the rejection with the cause of an illegal descriptor, which
while the bus is up is ILLEGAL_CMD. -/
theorem illegalDescriptorIsRefused : Obligations.IllegalDescriptorIsRefused := by
  intro s d hp hl hd
  have hcause : Safety.issueCause d s = .illegalCmd := by
    rw [issueCause_of_illegal hd, illegalError, if_neg (not_not_intro hl)]
  show issueWord d s = _
  rw [issueWord_of_idle hp, hcause]
  rfl

end

section
/-! The ready gate (R90 to R93): where WAITRDY leads and what level it spends, the poll that holds the gate, and where the
micro-operations have no meaning. -/

namespace Sys2Proof.Machine

open Sys2Proof.Safety

/-- Where a sample that reads 1 leads from each of the three gates (R116, R120, R123). -/
theorem gateExit_of_gate {s : State} (hg : s.phase = .gate0 ∨ s.phase = .gate1 ∨ s.phase = .gate2) :
    gateExit s = some (if s.phase = .gate0 then .sel
      else if s.phase = .gate1 ∧ s.op = .rdw then .dmyA
      else if s.idx < s.cnt then .datA
      else .desel) := by
  rcases hg with hp | hp | hp <;> simp [gateExit, nextData, hp]

/-- A sample spends a level the device presents: the next of its script, or a free one (R12, R91). -/
theorem deviceLevel_sampled (s : State) : DeviceLevel s (rdyLevel s) (sampled s).levels (sampled s).rdyDraws := by
  cases hl : s.levels with
  | nil => exact .inr (by simp [hl])
  | cons l ls => exact .inl (by simp [rdyLevel, hl])

/-- One poll of a device that is not ready: its level is spent and recorded, and the engine is where it was (R93). -/
theorem execWaitrdy_of_unready {s : State} {ls : List Bool}
    (hg : s.phase = .gate0 ∨ s.phase = .gate1 ∨ s.phase = .gate2) (hl : s.levels = false :: ls) :
    execWaitrdy s = .next { s with levels := ls, wire := s.wire ++ [.poll false] } := by
  rw [execWaitrdy_of_exit (gateExit_of_gate hg)]
  simp [sampled, rdyLevel, hl]

theorem run_of_step {s t : State} (h : step s = .next t) (k : Nat) :
    Host.Core.run core (k + 1) s = Host.Core.run core k t := by
  simp only [Host.Core.run, core, h]

/-- A phase that is no gate has no exit, and without one there is nothing to poll for (R90, R96). -/
theorem execWaitrdy_outside_gates {s : State} (hg : ¬ (s.phase = .gate0 ∨ s.phase = .gate1 ∨ s.phase = .gate2)) :
    execWaitrdy s = .refused .microOpOutOfPhase := by
  simp only [not_or] at hg
  obtain ⟨h0, h1, h2⟩ := hg
  have noExit : gateExit s = none := by simp only [gateExit]
  simp only [execWaitrdy, noExit]

/-- Outside the six phases that exchange a byte only the last arm of XCHG is left (R100, R106). -/
theorem execXchg_outside_exchanges {s : State}
    (hx : ¬ (s.phase = .preHi ∨ s.phase = .preLo ∨ s.phase = .dmyA ∨ s.phase = .dmyB
      ∨ s.phase = .datA ∨ s.phase = .datB)) (out : Byte) :
    execXchg out s = .refused .microOpOutOfPhase := by
  simp only [not_or] at hx
  obtain ⟨hPreHi, hPreLo, hDmyA, hDmyB, hDatA, hDatB⟩ := hx
  simp only [execXchg]

end Sys2Proof.Machine

open Sys2Proof Sys2Proof.Machine Sys2Proof.Safety

/-- Settles O34: a gate always has an exit, and the sample decides between it and the gate. -/
theorem waitrdyPollsOnceInEachGate : Obligations.WaitrdyPollsOnceInEachGate := by
  intro s hg
  refine ⟨rdyLevel s, (sampled s).levels, (sampled s).rdyDraws, deviceLevel_sampled s, ?_⟩
  refine (execWaitrdy_of_exit (gateExit_of_gate hg)).trans ?_
  cases hr : rdyLevel s <;> simp [sampled, hr]

/-- Settles O44: each of the three writes only what its equation names. -/
theorem gateAndSelectFrame : Obligations.GateAndSelectFrame := by
  intro s t i hi he
  rcases hi with rfl | rfl | rfl
  · obtain ⟨p, -, rfl⟩ := execWaitrdy_next he
    simp [readTXW, readTXP, readRXW]
  · obtain ⟨-, rfl⟩ := execCslow_next he
    simp [readTXW, readTXP, readRXW]
  · obtain ⟨-, rfl⟩ := execCshigh_next he
    simp +contextual [readTXW, readTXP, readRXW]

/-- Settles O56, by induction on the number of samples that read 0: after each the engine is in the same gate. -/
theorem unreadyDeviceHoldsTheGate : Obligations.UnreadyDeviceHoldsTheGate := by
  intro s k ls hg ht hl
  induction k generalizing s with
  | zero =>
    obtain rfl : s.levels = ls := hl
    simp [Host.Core.run]
  | succ k ih =>
    have hstep : step s = .next
        { s with levels := List.replicate k false ++ ls, wire := s.wire ++ [.poll false] } := by
      rw [List.replicate_succ, List.cons_append] at hl
      rw [step_of_no_turn ht, engineTurn_gate hg, execWaitrdy_of_unready hg hl]
    refine (run_of_step hstep k).trans ((ih _ ?gate ?noTurn ?levels).trans ?_)
    case gate => exact hg
    case noTurn => exact ht
    case levels => rfl
    simp [List.replicate_succ]

/-- Settles O42: the match or the guard of each micro-operation, outside its phases. -/
theorem microOperationsBelongToTheirPhases : Obligations.MicroOperationsBelongToTheirPhases := fun _ =>
  ⟨execWaitrdy_outside_gates, fun hp => if_neg hp, fun hp => if_neg hp,
    fun out hx => execXchg_outside_exchanges hx out⟩

end

section
/-! The byte exchange (R100, R105): the byte the device gives, where an exchange leads, and what it writes to `IDX`, `RXH`
and `RXW`. -/

namespace Sys2Proof.Machine

open Sys2Proof.Safety

/-- An exchange receives a byte the device presents: the next of its script, or a free one (R12, R100). -/
theorem deviceByte_exchanged (out : Byte) (s : State) :
    DeviceByte s (receivedByte s) (exchanged out s).bytes (exchanged out s).sdiDraws := by
  cases hb : s.bytes with
  | nil => exact .inr (by simp [hb])
  | cons b bs => exact .inl (by simp [sdiByte, hb])

/-- XCHG in a phase of the preamble or of the dummy word: the exchange, and the phase after it (R118, R119, R121, R122). -/
theorem execXchg_before_data {s : State} (out : Byte)
    (hp : s.phase = .preHi ∨ s.phase = .preLo ∨ s.phase = .dmyA ∨ s.phase = .dmyB) :
    execXchg out s = .next { exchanged out s with
      phase :=
        if s.phase = .preHi then .preLo
        else if s.phase = .preLo then .gate1
        else if s.phase = .dmyA then .dmyB
        else .gate2 } := by
  obtain ⟨preHi, preLo, dmyA, dmyB⟩ := execXchg_of_plain (s := s) out
  rcases hp with hp | hp | hp | hp
  · simpa [hp] using preHi hp
  · simpa [hp] using preLo hp
  · simpa [hp] using dmyA hp
  · simpa [hp] using dmyB hp

/-- One word, or a pair of pixels (R125). -/
theorem elementSize_eq (op : Op) : elementSize op = if op = .wpp then 2#32 else 1#32 := by
  cases op <;> rfl

/-- Only a word can be followed by another in the same frame (R125). -/
theorem afterElement_eq (s : State) :
    afterElement s = if s.op ≠ .wpp ∧ s.idx + 1#32 < s.cnt then .datA else .desel := by
  unfold afterElement
  cases ho : s.op <;> rfl

/-- `IDX` moves on with the second byte of an element (R125). -/
theorem execXchg_idx {out : Byte} {s t : State} (h : execXchg out s = .next t) :
    t.idx = if s.phase = .datB then s.idx + elementSize s.op else s.idx := by
  rcases execXchg_next h with ⟨hp, rfl⟩ | ⟨hp, rfl⟩ | ⟨hp, rfl⟩ | ⟨hp, rfl⟩ | ⟨hp, rfl⟩ | ⟨hp, -, rfl⟩ <;>
    simp [hp, dataFirst, dataSecond]

/-- `RXH` takes the first byte of a received word (R124). -/
theorem execXchg_rxh {out : Byte} {s t : State} (h : execXchg out s = .next t) :
    t.rxh = if s.phase = .datA ∧ s.op = .rdw then receivedByte s else s.rxh := by
  rcases execXchg_next h with ⟨hp, rfl⟩ | ⟨hp, rfl⟩ | ⟨hp, rfl⟩ | ⟨hp, rfl⟩ | ⟨hp, rfl⟩ | ⟨hp, -, rfl⟩ <;>
    simp [hp, dataFirst, dataSecond]

/-- The second byte of a received word completes it in the cell of `RXW` at `IDX` (R125). -/
theorem execXchg_rxw {out : Byte} {s t : State} (h : execXchg out s = .next t) :
    t.rxw = if s.phase = .datB ∧ s.op = .rdw then
        writeCell s.rxw s.idx.toNat (joinBytes s.rxh (receivedByte s))
      else s.rxw := by
  rcases execXchg_next h with ⟨hp, rfl⟩ | ⟨hp, rfl⟩ | ⟨hp, rfl⟩ | ⟨hp, rfl⟩ | ⟨hp, rfl⟩ | ⟨hp, -, rfl⟩ <;>
    simp [hp, dataFirst, dataSecond]

/-- What the engine writes in other steps, XCHG leaves alone: chip-select, `DONE`, `RLEN` and the levels of `RDY` (R105). -/
theorem execXchg_keeps_select_and_gate {out : Byte} {s t : State} (h : execXchg out s = .next t) :
    t.csn = s.csn ∧ t.done = s.done ∧ t.rlen = s.rlen ∧ t.levels = s.levels ∧ t.rdyDraws = s.rdyDraws := by
  rcases execXchg_next h with ⟨-, rfl⟩ | ⟨-, rfl⟩ | ⟨-, rfl⟩ | ⟨-, rfl⟩ | ⟨-, rfl⟩ | ⟨-, -, rfl⟩ <;>
    exact ⟨rfl, rfl, rfl, rfl, rfl⟩

end Sys2Proof.Machine

open Sys2Proof Sys2Proof.Machine Sys2Proof.Safety

/-- Settles O37: in each phase the exchange is the one of `exchanged`; only in the data phases of RDW is its byte kept, and
the cell it completes reads back through the laws of `writeCell`. -/
theorem xchgExchangesOneByte : Obligations.XchgExchangesOneByte := by
  intro s out
  have device := deviceByte_exchanged out s
  refine ⟨fun hp => ⟨_, _, _, device, execXchg_before_data out hp⟩,
    fun hp => ⟨_, _, _, device, execXchg_of_datA hp out⟩, fun hp cell => ?_⟩
  have storable : ¬ (s.op = .rdw ∧ s.params.rcap ≤ s.idx) := fun ⟨ho, full⟩ => BitVec.not_lt.mpr full (cell ho)
  refine ⟨_, _, _, (dataSecond out s).rxw, device, (execXchg_of_datB hp storable out).trans ?_, fun ho => if_neg ho,
    fun ho => ?_⟩
  · rw [← elementSize_eq, ← afterElement_eq]
    rfl
  · have stored : (dataSecond out s).rxw = writeCell s.rxw s.idx.toNat (s.rxh ++ receivedByte s) := by
      rw [← joinBytes_eq_append]
      exact if_pos ho
    rw [stored]
    exact ⟨fun f => readCell_writeCell_same _ f _ _, fun f i hi => readCell_writeCell_other _ f hi _⟩

/-- Settles O45: the frame of the engine's step and of XCHG, and the one equation of each register it writes. -/
theorem exchangeFrame : Obligations.ExchangeFrame := by
  intro s t out he
  have frame : EngineFrame s t := execXchg_frame he
  obtain ⟨csn, done, rlen, levels, rdyDraws⟩ := execXchg_keeps_select_and_gate he
  refine ⟨frame.params, csn, frame.life, frame.op, frame.pre, frame.cnt, done, frame.err, frame.wlen, frame.plen, rlen,
    frame.replies, levels, rdyDraws, frame.turns, frame.resets, fun hp => ?idx, fun hn => ?rxh, fun a => ?transmit,
    fun hn a => ?nothingStored, fun hp ho a ha => ?otherCells⟩
  case idx => rw [execXchg_idx he, if_neg hp]
  case rxh => rw [execXchg_rxh he, if_neg hn]
  case transmit => simp only [readTXW, readTXP, frame.txw, frame.txp, frame.resets, and_self]
  case nothingStored => rw [readRXW, readRXW, frame.resets, execXchg_rxw he, if_neg hn]
  case otherCells =>
    rw [readRXW, readRXW, frame.resets, execXchg_rxw he, if_pos ⟨hp, ho⟩, readCell_writeCell_other _ _ ha]

end

section
/-! The issue of a command (R113, R114, R140 to R142): when it is accepted and when refused, as equations, and what
each leaves. -/

namespace Sys2Proof.Machine

open Sys2Proof.Safety

theorem issue_of_accepted {op : Op} {cnt : Count} {s : State} (hp : s.phase = .idle)
    (hc : issueError op cnt s = .none) (pre : Word) : issue op pre cnt s = .next (accept op pre cnt s) := by
  rw [issue, if_pos hp, if_pos hc]

theorem issue_of_rejected {op : Op} {cnt : Count} {s : State} (hp : s.phase = .idle)
    (hc : issueError op cnt s ≠ .none) (pre : Word) :
    issue op pre cnt s = .next (reject (issueError op cnt s) s) := by
  rw [issue, if_pos hp, if_neg hc]

/-- The preconditions of the three commands (R113) are all that can refuse them. -/
theorem issueError_wrw {cnt : Count} {s : State} (hl : s.life = .up) (hc : cnt = s.wlen) :
    issueError .wrw cnt s = .none := by
  simp [issueError, hl, hc]

theorem issueError_rdw {cnt : Count} {s : State} (hl : s.life = .up) (hc : cnt ≤ s.params.rcap) :
    issueError .rdw cnt s = .none := by
  simp [issueError, hl, BitVec.not_lt.mpr hc]

theorem issueError_wpp {cnt : Count} {s : State} (hl : s.life = .up) (even : cnt.getLsbD 0 = false)
    (hc : cnt = s.plen) : issueError .wpp cnt s = .none := by
  simpa [issueError, hl, ← hc] using even

/-- An even count that is not the pixel length is refused for the length (R113). -/
theorem issueError_wpp_of_length {cnt : Count} {s : State} (hl : s.life = .up) (even : cnt.getLsbD 0 = false)
    (hc : cnt ≠ s.plen) : issueError .wpp cnt s = .lenMismatch := by
  simpa [issueError, hl, hc] using even

/-- The acceptance of a command with a frame to send enters the first gate (R113). -/
theorem accept_of_frame {op : Op} {cnt : Count} (frame : ¬ (op = .wpp ∧ cnt = 0#32)) (pre : Word) (s : State) :
    accept op pre cnt s =
      { s with err := .none, op := op, pre := pre, cnt := cnt, idx := 0#32, done := false, phase := .gate0 } := by
  rw [accept, if_neg frame, decide_eq_false frame]

/-- A command is issued by its operation and fields, WPP with the preamble zero (R27). -/
theorem exec_command {i : Instr}
    (hi : (∃ pre cnt, i = .wrw pre cnt) ∨ (∃ pre cnt, i = .rdw pre cnt) ∨ (∃ cnt, i = .wpp cnt)) :
    ∃ op pre cnt, exec i = issue op pre cnt := by
  rcases hi with ⟨pre, cnt, rfl⟩ | ⟨pre, cnt, rfl⟩ | ⟨cnt, rfl⟩
  · exact ⟨.wrw, pre, cnt, rfl⟩
  · exact ⟨.rdw, pre, cnt, rfl⟩
  · exact ⟨.wpp, 0#16, cnt, rfl⟩

/-- R71: the code of a legal descriptor latches WPP exactly when it is 3. -/
theorem opOfCode_eq_wpp_iff {c : BitVec 2} (h : c ≠ 0#2) : opOfCode c = .wpp ↔ c = 3#2 := by
  revert c
  decide

theorem fieldOp_of_accepted {d : BitVec 64} {s : State} (h : issueCause d s = .none) : fieldOp d ≠ 0#2 := fun h0 =>
  illegalError_ne_none s (issueCause_of_illegal (.inl h0) s ▸ h)

/-- R113, R114: a command without a frame to send is a pixel command of count 0. -/
theorem accept_empty_iff {d : BitVec 64} {s : State} (h : issueCause d s = .none) :
    (opOfCode (fieldOp d) = .wpp ∧ fieldCnt d = 0#32) ↔ (fieldOp d = 3#2 ∧ fieldCnt d = 0#32) := by
  rw [opOfCode_eq_wpp_iff (fieldOp_of_accepted h)]

/-- The acceptance of a descriptor, read from its raw bits (R113). -/
theorem accept_fields {d : BitVec 64} {s : State} (hc : issueCause d s = .none) :
    accept (opOfCode (fieldOp d)) (fieldPre d) (fieldCnt d) s =
      { s with
        err := .none
        op := opOfCode (fieldOp d)
        pre := fieldPre d
        cnt := fieldCnt d
        idx := 0#32
        done := decide (fieldOp d = 3#2 ∧ fieldCnt d = 0#32)
        phase := if fieldOp d = 3#2 ∧ fieldCnt d = 0#32 then .idle else .gate0 } := by
  simp only [accept, accept_empty_iff hc]

end Sys2Proof.Machine

open Sys2Proof Sys2Proof.Machine Sys2Proof.Safety

/-- Settles O25: at rest an issue is the acceptance or the rejection of `issueWord_of_idle`, and elsewhere no move. -/
theorem issueFollowsItsPseudocode : Obligations.IssueFollowsItsPseudocode := by
  refine ⟨fun s d hp t he => hp (issueWord_next he).1, fun s d hp => ?_⟩
  refine (issueWord_of_idle hp).trans (congrArg Host.Outcome.next ?_)
  by_cases hc : issueCause d s = .none
  · rw [if_pos hc, if_neg (not_not_intro hc)]
    exact accept_fields hc
  · rw [if_neg hc, if_pos hc]
    rfl

/-- Settles O29: the length is the only precondition of WRW besides the bus. -/
theorem wrwIsAccepted : Obligations.WrwIsAccepted := fun s pre _ hp hl hc =>
  (issue_of_accepted hp (issueError_wrw hl hc) pre).trans (congrArg _ (accept_of_frame (by simp) pre s))

/-- Settles O30: the capacity is the only precondition of RDW besides the bus. -/
theorem rdwIsAccepted : Obligations.RdwIsAccepted := fun s pre _ hp hl hc =>
  (issue_of_accepted hp (issueError_rdw hl hc) pre).trans (congrArg _ (accept_of_frame (by simp) pre s))

/-- Settles O31: with a pair to send an even count that is the pixel length enters the first gate. -/
theorem wppIsAccepted : Obligations.WppIsAccepted := fun s _ hp hl even hc pair =>
  (issue_of_accepted hp (issueError_wpp hl even hc) 0#16).trans (congrArg _ (accept_of_frame (fun h => pair h.2) _ s))

/-- Settles O32: count 0 is even; it is accepted, without a frame, when the pixel length is 0 as well, and else
refused. -/
theorem emptyPixelWriteCompletesAtOnce : Obligations.EmptyPixelWriteCompletesAtOnce := by
  intro s hp hl
  refine ⟨fun empty => ⟨_, issue_of_accepted hp (issueError_wpp hl rfl empty.symm) 0#16, ?_⟩, fun pairs => ?_⟩
  · simp
  · have cause := issueError_wpp_of_length (cnt := 0#32) hl rfl pairs.symm
    exact (issue_of_rejected hp (by simp [cause]) 0#16).trans (by rw [cause, reject])

/-- Settles O43: an acceptance and a rejection write only what their definitions name; a rejection latches nothing. -/
theorem commandIssueFrame : Obligations.CommandIssueFrame := by
  intro s t i hi he
  obtain ⟨op, pre, cnt, issued⟩ := exec_command hi
  rw [issued] at he
  obtain ⟨-, ⟨-, rfl⟩ | ⟨-, rfl⟩⟩ := issue_next he
  · simp [readTXW, readTXP, readRXW]
  · simp [readTXW, readTXP, readRXW]

end

section
/-! The wire history (R115, R129): the one event of each step of a running engine and where the step leads, and
the host's events, which add none. -/

namespace Sys2Proof.Safety

open Sys2Proof.Machine

theorem inFrame_nextData (s : State) : inFrame (nextData s) = true := by
  unfold nextData
  split <;> rfl

theorem inFrame_afterElement (s : State) : inFrame (afterElement s) = true := by
  rcases afterElement_cases s with ⟨e, -⟩ | ⟨e, -⟩ <;> rw [e] <;> rfl

/-- A gate leads to chip-select, or inside its frame; it crosses the bounds of no frame (R116, R120, R123). -/
theorem gateExit_keeps_inFrame {s : State} {p : Phase} (h : gateExit s = some p) : inFrame p = inFrame s.phase := by
  unfold gateExit at h
  cases hp : s.phase <;> simp only [hp, reduceCtorEq, Option.some.injEq] at h <;> subst h
  case gate0 => rfl
  case gate1 =>
    split
    · rfl
    · exact inFrame_nextData s
  case gate2 => exact inFrame_nextData s

/-- R115: the event of a step of a running engine by the phase, and where the step leads. -/
theorem engineTurn_event {s t : State} (hs : s.phase ≠ .idle) (he : engineTurn s = .next t) :
    (t.wire = s.wire ++ [.poll (rdyLevel s)] ∧ (s.phase = .gate0 ∨ s.phase = .gate1 ∨ s.phase = .gate2) ∧
      inFrame t.phase = inFrame s.phase ∧ (t.phase = .sel → rdyLevel s = true)) ∨
    (t.wire = s.wire ++ [.csLow] ∧ s.phase = .sel ∧ t.phase = .preHi) ∨
    (t.wire = s.wire ++ [.csHigh] ∧ s.phase = .desel ∧ (t.phase = .idle ∨ t.phase = .gate0)) ∨
    (∃ out b, t.wire = s.wire ++ [.xchg out b] ∧
      (s.phase = .preHi ∨ s.phase = .preLo ∨ s.phase = .dmyA ∨ s.phase = .dmyB
        ∨ s.phase = .datA ∨ s.phase = .datB) ∧ inFrame t.phase = true) := by
  rcases engineTurn_next he with ⟨hp, -⟩ | ⟨hp, he⟩ | ⟨hp, he⟩ | ⟨hp, he⟩ | ⟨hp, out, he⟩
  · exact absurd hp hs
  · obtain ⟨p, exit, rfl⟩ := execWaitrdy_next he
    refine .inl ⟨rfl, hp, ?_, ?_⟩
    · cases hr : rdyLevel s
      · rfl
      · exact gateExit_keeps_inFrame exit
    · cases hr : rdyLevel s <;> rcases hp with hp | hp | hp <;> simp [hp]
  · obtain ⟨-, rfl⟩ := execCslow_next he
    exact .inr (.inl ⟨rfl, hp, rfl⟩)
  · obtain ⟨-, rfl⟩ := execCshigh_next he
    refine .inr (.inr (.inl ⟨rfl, hp, ?_⟩))
    cases hc : commandEnds s <;> simp
  · refine .inr (.inr (.inr ⟨out, receivedByte s, ?_⟩))
    rcases execXchg_next he with ⟨-, rfl⟩ | ⟨-, rfl⟩ | ⟨-, rfl⟩ | ⟨-, rfl⟩ | ⟨-, rfl⟩ | ⟨-, -, rfl⟩
    case inr.inr.inr.inr.inr => exact ⟨rfl, hp, inFrame_afterElement s⟩
    all_goals exact ⟨rfl, hp, rfl⟩

/-- The phases that exchange a byte stand in a frame (R118 to R125). -/
theorem inFrame_of_exchange {p : Phase}
    (h : p = .preHi ∨ p = .preLo ∨ p = .dmyA ∨ p = .dmyB ∨ p = .datA ∨ p = .datB) : inFrame p = true := by
  rcases h with rfl | rfl | rfl | rfl | rfl | rfl <;> rfl

/-- The kind of the event names the phase, up to the gates and the exchanges (R115). -/
theorem engineTurn_event_kind {s t : State} (hs : s.phase ≠ .idle) (he : engineTurn s = .next t) :
    ∃ e, t.wire = s.wire ++ [e] ∧
      ((∃ l, e = .poll l) ↔ (s.phase = .gate0 ∨ s.phase = .gate1 ∨ s.phase = .gate2)) ∧
      (e = .csLow ↔ s.phase = .sel) ∧ (e = .csHigh ↔ s.phase = .desel) := by
  rcases engineTurn_event hs he with ⟨hw, hp, -⟩ | ⟨hw, hp, -⟩ | ⟨hw, hp, -⟩ | ⟨out, b, hw, hp, -⟩ <;>
    refine ⟨_, hw, ?_⟩
  · rcases hp with hp | hp | hp <;> simp [hp]
  · simp [hp]
  · simp [hp]
  · rcases hp with hp | hp | hp | hp | hp | hp <;> simp [hp]

/-- A step appends its event where R129 lets it stand: the gate has passed before `SEL`, and a frame is open before the
phases of a frame. -/
theorem engineTurn_keeps_wireInv {s t : State} (h : WireInv s) (he : engineTurn s = .next t) : WireInv t := by
  by_cases hs : s.phase = .idle
  · rw [engineTurn_idle hs] at he
    cases he
    exact h
  obtain ⟨legal, passed, opened⟩ := h
  rcases engineTurn_event hs he with ⟨hw, -, frame, ready⟩ | ⟨hw, hp, hq⟩ | ⟨hw, hp, hq⟩ | ⟨out, b, hw, hp, hq⟩
  · exact ⟨by simpa [hw, scanEvent] using legal, by simpa [hw, scanEvent] using ready,
      by simpa [hw, scanEvent, frame] using opened⟩
  · exact ⟨by simp [hw, scanEvent, legal, passed hp], by simp [hq], by simp [hw, scanEvent]⟩
  · have inside : (scanWire s.wire).opened = true := opened (by simp [hp, inFrame])
    exact ⟨by simp [hw, scanEvent, legal, inside], by rcases hq with hq | hq <;> simp [hq],
      by rcases hq with hq | hq <;> simp [hq, inFrame]⟩
  · have inside := opened (inFrame_of_exchange hp)
    exact ⟨by simp [hw, scanEvent, legal, inside], fun e => by simp [e, inFrame] at hq,
      by simp [hw, scanEvent, inside]⟩

/-- Chip-select falls outside a frame and rises inside one, and the phase follows it. -/
theorem engineTurn_keeps_framesAlternate {s t : State} (h : FramesAlternate s) (he : engineTurn s = .next t) :
    FramesAlternate t := by
  by_cases hs : s.phase = .idle
  · rw [engineTurn_idle hs] at he
    cases he
    exact h
  obtain ⟨alternates, opened⟩ := h
  rcases engineTurn_event hs he with ⟨hw, -, frame, -⟩ | ⟨hw, hp, hq⟩ | ⟨hw, hp, hq⟩ | ⟨out, b, hw, hp, hq⟩
  · exact ⟨by simpa [hw, scanEvent] using alternates, by simpa [hw, scanEvent, frame] using opened⟩
  · rw [hp] at opened
    exact ⟨by simp [hw, scanEvent, alternates, opened, inFrame], by simp [hw, scanEvent, hq, inFrame]⟩
  · rw [hp] at opened
    exact ⟨by simp [hw, scanEvent, alternates, opened, inFrame],
      by rcases hq with hq | hq <;> simp [hw, scanEvent, hq, inFrame]⟩
  · rw [inFrame_of_exchange hp] at opened
    exact ⟨by simpa [hw, scanEvent] using alternates, by simpa [hw, scanEvent, hq] using opened⟩

/-- R10, R152: no event of the host stands in the wire history. -/
theorem hostTurn_wire {e : HostEvent} {s t : State} (he : hostTurn e s = .next t) : t.wire = s.wire := by
  rcases hostTurn_frame he with ⟨d, -, -, -, rfl⟩ | ⟨ok, -, -, rfl⟩ | ⟨-, -, rfl⟩ | ⟨-, rfl⟩ | frame
  · rfl
  · cases ok <;> rfl
  · rfl
  · rfl
  · exact frame.wire

/-- R128: the only events of the host that move `PHASE` are the acceptance of a command with a frame to send, and
reset. -/
theorem hostTurn_phase {e : HostEvent} {s t : State} (he : hostTurn e s = .next t) :
    t.phase = s.phase ∨
    (s.phase = .idle ∧ t.phase = .gate0 ∧
      ∃ d, e = .issue d ∧ issueCause d s = .none ∧ ¬ (fieldOp d = 3#2 ∧ fieldCnt d = 0#32)) ∨
    (e = .reset ∧ t.phase = .idle) := by
  rcases hostTurn_frame he with ⟨d, rfl, hp, hc, rfl⟩ | ⟨ok, -, -, rfl⟩ | ⟨-, -, rfl⟩ | ⟨rfl, rfl⟩ | frame
  · simp only [accept_phase, accept_empty_iff hc, hp]
    by_cases empty : fieldOp d = 3#2 ∧ fieldCnt d = 0#32
    · exact .inl (if_pos empty)
    · exact .inr (.inl ⟨trivial, if_neg empty, d, rfl, hc, empty⟩)
  · cases ok <;> exact .inl rfl
  · exact .inl rfl
  · exact .inr (.inr ⟨rfl, rfl⟩)
  · exact .inl frame.phase

theorem WireInv.spend {s : State} (h : WireInv s) (ts : List Turn) : WireInv { s with turns := ts } := { h with }

theorem FramesAlternate.spend {s : State} (h : FramesAlternate s) (ts : List Turn) :
    FramesAlternate { s with turns := ts } := { h with }

theorem hostTurn_keeps_wireInv {e : HostEvent} {s t : State} (h : WireInv s) (he : hostTurn e s = .next t) :
    WireInv t := by
  have hw := hostTurn_wire he
  obtain ⟨legal, passed, opened⟩ := h
  rw [← hw] at legal passed opened
  rcases hostTurn_phase he with hp | ⟨-, hp, -⟩ | ⟨-, hp⟩
  · exact ⟨legal, hp ▸ passed, hp ▸ opened⟩
  · exact ⟨legal, by simp [hp], by simp [hp, inFrame]⟩
  · exact ⟨legal, by simp [hp], by simp [hp, inFrame]⟩

/-- A reset at rest finds every frame closed (R181). -/
theorem hostTurn_keeps_framesAlternate {e : HostEvent} {s t : State} (h : FramesAlternate s)
    (closed : e = .reset → inFrame s.phase = false) (he : hostTurn e s = .next t) : FramesAlternate t := by
  have frame : inFrame t.phase = inFrame s.phase := by
    rcases hostTurn_phase he with hp | ⟨hs, hp, -⟩ | ⟨rfl, hp⟩
    · rw [hp]
    · rw [hp, hs]; rfl
    · rw [hp, closed rfl]; rfl
  exact ⟨(hostTurn_wire he).symm ▸ h.alternates, by rw [hostTurn_wire he, frame, h.opened_iff]⟩

end Sys2Proof.Safety

open Sys2Proof Sys2Proof.Machine Sys2Proof.Safety

/-- Settles O49: the engine appends each event where it may stand; the host appends none, and moves `PHASE` only outside
frames, reset excepted. -/
theorem stepKeepsTheWireLegal : Obligations.StepKeepsTheWireLegal := by
  refine ⟨fun s t h hstep => ?legal, fun s t h atRest hstep => ?alternates⟩
  case legal =>
    rcases step_next hstep with ⟨e, ts, -, he⟩ | ⟨ts, he⟩ | ⟨ts, rfl⟩
    · exact hostTurn_keeps_wireInv (h.spend ts) he
    · exact engineTurn_keeps_wireInv (h.spend ts) he
    · exact h.spend ts
  case alternates =>
    rcases step_next hstep with ⟨e, ts, hts, he⟩ | ⟨ts, he⟩ | ⟨ts, rfl⟩
    · exact hostTurn_keeps_framesAlternate (h.spend ts) (fun reset => atRest ts (reset ▸ hts)) he
    · exact engineTurn_keeps_framesAlternate (h.spend ts) he
    · exact h.spend ts

/-- Settles O13: the event of the phase, and the frame of the engine's step. -/
theorem runningStepMakesOneWireEvent : Obligations.RunningStepMakesOneWireEvent := by
  intro s t hs he
  obtain ⟨e, hw, kinds⟩ := engineTurn_event_kind hs he
  have frame := engineTurn_frame he
  exact ⟨e, hw, frame.txw, frame.txp, frame.wlen, frame.plen, frame.replies, frame.turns, kinds⟩

end

section
/-! The received bytes (R131, R189): two states that differ only in what the device sent, and in what came of it, take
the same step. -/

namespace Sys2Proof.Machine

/-- A relation between states with the same turns, at rest together, that the engine's steps, the host's events and a
spent turn keep, is kept by every step: the first state's step is matched by one of the second. -/
theorem step_simulates {R : State → State → Prop} {s t s' : State} (h : R s t)
    (turns : t.turns = s.turns) (phase : t.phase = s.phase)
    (spend : ∀ ts, R { s with turns := ts } { t with turns := ts })
    (engine : ∀ {u v u'}, R u v → engineTurn u = .next u' → ∃ v', engineTurn v = .next v' ∧ R u' v')
    (host : ∀ {e u v u'}, R u v → hostTurn e u = .next u' → ∃ v', hostTurn e v = .next v' ∧ R u' v')
    (he : step s = .next s') : ∃ t', step t = .next t' ∧ R s' t' := by
  cases hts : s.turns with
  | nil =>
    rw [step_of_no_turn hts] at he
    rw [step_of_no_turn (turns.trans hts)]
    exact engine h he
  | cons turn ts =>
    cases turn with
    | host e =>
      rw [step_of_host hts] at he
      rw [step_of_host (turns.trans hts)]
      exact host (spend ts) he
    | engine =>
      rw [step_of_engine hts] at he
      rw [step_of_engine (turns.trans hts)]
      exact engine (spend ts) he
    | wait =>
      have moving : busy t = busy s := by rw [busy, busy, phase]
      rw [step_of_wait hts] at he
      rw [step_of_wait (turns.trans hts), moving]
      split at he
      next hb => rw [if_pos hb]; exact engine h he
      next hb => cases he; rw [if_neg hb]; exact ⟨_, rfl, spend ts⟩

end Sys2Proof.Machine

namespace Sys2Proof.Safety

open Sys2Proof.Machine

/-- `s` with another device's bytes, and with other values wherever those bytes can have come. -/
def withReceived (s : State) (bytes : List Byte) (draws : Nat) (rxh : Byte) (rxw : Memory 16)
    (wire : List WireEvent) (replies : List Reply) : State :=
  { s with bytes := bytes, sdiDraws := draws, rxh := rxh, rxw := rxw, wire := wire, replies := replies }

theorem SameButReceived.exists_eq {s t : State} (h : SameButReceived s t) :
    ∃ bs n r m w rs, t = withReceived s bs n r m w rs := ⟨_, _, _, _, _, _, h.rest_equal⟩

/-- One event more on both wires, the same but for a received byte, keeps what was sent the same. -/
theorem sent_append {w w' : List WireEvent} {e e' : WireEvent} (h : w'.map sentPart = w.map sentPart)
    (he : sentPart e' = sentPart e) : (w' ++ [e']).map sentPart = (w ++ [e]).map sentPart := by
  simp [h, he]

section
variable {s : State} {bs : List Byte} {n : Nat} {r : Byte} {m : Memory 16} {w : List WireEvent} {rs : List Reply}

/-- What the sequencer sends is formed from nothing that was received. -/
theorem fetch_withReceived : fetch (withReceived s bs n r m w rs) = fetch s := rfl

theorem execXchg_sameButReceived {out : Byte} {s' : State} (sent : w.map sentPart = s.wire.map sentPart)
    (he : execXchg out s = .next s') :
    ∃ t', execXchg out (withReceived s bs n r m w rs) = .next t' ∧ SameButReceived s' t' := by
  obtain ⟨preHi, preLo, dmyA, dmyB⟩ := execXchg_of_plain (s := withReceived s bs n r m w rs) out
  have phase : (withReceived s bs n r m w rs).phase = s.phase := rfl
  have sent' := sent_append sent (e := .xchg out (receivedByte s))
    (e' := .xchg out (receivedByte (withReceived s bs n r m w rs))) rfl
  rcases execXchg_next he with ⟨hp, rfl⟩ | ⟨hp, rfl⟩ | ⟨hp, rfl⟩ | ⟨hp, rfl⟩ | ⟨hp, rfl⟩ | ⟨hp, cell, rfl⟩
  · exact ⟨_, preHi hp, rfl, sent'⟩
  · exact ⟨_, preLo hp, rfl, sent'⟩
  · exact ⟨_, dmyA hp, rfl, sent'⟩
  · exact ⟨_, dmyB hp, rfl, sent'⟩
  · exact ⟨_, execXchg_of_datA (phase.trans hp) out, rfl, sent'⟩
  · exact ⟨_, execXchg_of_datB (phase.trans hp) cell out, rfl, sent'⟩

theorem issue_sameButReceived {op : Op} {pre : Word} {cnt : Count} {s' : State}
    (sent : w.map sentPart = s.wire.map sentPart) (he : issue op pre cnt s = .next s') :
    ∃ t', issue op pre cnt (withReceived s bs n r m w rs) = .next t' ∧ SameButReceived s' t' := by
  have phase : (withReceived s bs n r m w rs).phase = s.phase := rfl
  have cause : issueError op cnt (withReceived s bs n r m w rs) = issueError op cnt s := rfl
  obtain ⟨hp, ⟨hc, rfl⟩ | ⟨hc, rfl⟩⟩ := issue_next he
  · exact ⟨_, issue_of_accepted (phase.trans hp) (cause.trans hc) pre, rfl, sent⟩
  · exact ⟨_, issue_of_rejected (phase.trans hp) (cause.trans_ne hc) pre, rfl, sent⟩

/-- An instruction decides on nothing that was received; an issue adds nothing to the wire, a micro-operation its
event. -/
theorem exec_sameButReceived {i : Instr} {s' : State} (sent : w.map sentPart = s.wire.map sentPart)
    (he : exec i s = .next s') :
    ∃ t', exec i (withReceived s bs n r m w rs) = .next t' ∧ SameButReceived s' t' := by
  cases i with
  | wrw pre cnt => exact issue_sameButReceived sent he
  | rdw pre cnt => exact issue_sameButReceived sent he
  | wpp cnt => exact issue_sameButReceived sent he
  | waitrdy =>
    obtain ⟨p, exit, rfl⟩ := execWaitrdy_next he
    exact ⟨_, execWaitrdy_of_exit exit, rfl, sent_append sent rfl⟩
  | cslow =>
    obtain ⟨hp, rfl⟩ := execCslow_next he
    exact ⟨_, execCslow_of_sel hp, rfl, sent_append sent rfl⟩
  | cshigh =>
    obtain ⟨hp, rfl⟩ := execCshigh_next he
    exact ⟨_, execCshigh_of_desel hp, rfl, sent_append sent rfl⟩
  | xchg out => exact execXchg_sameButReceived sent he

theorem engineTurn_sameButReceived {t s' : State} (h : SameButReceived s t) (he : engineTurn s = .next s') :
    ∃ t', engineTurn t = .next t' ∧ SameButReceived s' t' := by
  have sent := h.sent_equal
  obtain ⟨bs, n, r, m, w, rs, rfl⟩ := h.exists_eq
  unfold engineTurn at he ⊢
  rw [fetch_withReceived]
  split at he
  next hf => cases he; exact ⟨_, rfl, h⟩
  next => cases he
  next hf =>
    split at he
    next => exact exec_sameButReceived sent he
    next => cases he

theorem issueWord_sameButReceived {d : BitVec 64} {s' : State} (sent : w.map sentPart = s.wire.map sentPart)
    (he : issueWord d s = .next s') :
    ∃ t', issueWord d (withReceived s bs n r m w rs) = .next t' ∧ SameButReceived s' t' := by
  unfold issueWord at he ⊢
  split at he
  next => exact exec_sameButReceived sent he
  next =>
    obtain ⟨hp, rfl⟩ := issueIllegal_next he
    exact ⟨_, if_pos hp, rfl, sent⟩

end

theorem guarded_sameButReceived {g : Prop} [Decidable g] {u v s' : State} (he : guarded g u = .next s')
    (h : SameButReceived u v) : ∃ t', guarded g v = .next t' ∧ SameButReceived s' t' := by
  obtain ⟨hg, rfl⟩ := guarded_next he
  exact ⟨v, if_pos hg, h⟩

/-- The host's events decide on nothing that was received, and what they read goes nowhere but to the replies. -/
theorem hostTurn_sameButReceived {e : HostEvent} {s t s' : State} (h : SameButReceived s t)
    (he : hostTurn e s = .next s') : ∃ t', hostTurn e t = .next t' ∧ SameButReceived s' t' := by
  have sent := h.sent_equal
  obtain ⟨bs, n, r, m, w, rs, rfl⟩ := h.exists_eq
  cases e
  case issue d => exact issueWord_sameButReceived sent he
  case readSTATUS => cases he; exact ⟨_, rfl, rfl, sent⟩
  case reset => cases he; exact ⟨_, rfl, rfl, sent⟩
  case bringup ok => cases ok <;> exact guarded_sameButReceived (g := s.life = .down) he ⟨rfl, sent⟩
  case teardown => exact guarded_sameButReceived (g := s.life = .up ∧ s.phase = .idle) he ⟨rfl, sent⟩
  all_goals exact guarded_sameButReceived he ⟨rfl, sent⟩

theorem SameButReceived.spend {s t : State} (h : SameButReceived s t) (ts : List Turn) :
    SameButReceived { s with turns := ts } { t with turns := ts } where
  rest_equal := by rw [h.rest_equal]
  sent_equal := h.sent_equal

end Sys2Proof.Safety

open Sys2Proof Sys2Proof.Machine Sys2Proof.Safety

/-- Settles O54: agreement in all but what was received is a simulation of the step. -/
theorem receivedBytesNeverReachTheWire : Obligations.ReceivedBytesNeverReachTheWire := by
  intro s t s' h
  have turns : t.turns = s.turns := by rw [h.rest_equal]
  have phase : t.phase = s.phase := by rw [h.rest_equal]
  exact step_simulates h turns phase h.spend engineTurn_sameButReceived hostTurn_sameButReceived

end

section
/-! The steps of the phases (R115 to R128): what each sends, where it leads, and the arrows of the table of R128. -/

namespace Sys2Proof.Machine

open Sys2Proof.Safety

/-- `DAT_A` exchanges the first byte of its element, where the index names a cell (R124). -/
theorem engineTurn_datA_of_cell {s : State} (hp : s.phase = .datA) (word : s.op = .wrw → s.idx < s.params.wcap)
    (pair : s.op = .wpp → s.idx + 1#32 < s.params.pcap) :
    engineTurn s = execXchg
      (match s.op with
       | .wrw => hi (readTXW s s.idx.toNat)
       | .rdw => 0#8
       | .wpp => readTXP s (s.idx + 1#32).toNat) s := by
  rw [engineTurn_datA hp]
  cases ho : s.op <;> simp only
  case wrw => exact if_pos (word ho)
  case wpp => exact if_pos (pair ho)

/-- `DAT_B` exchanges the second byte of its element, where the index names a cell (R125). -/
theorem engineTurn_datB_of_cell {s : State} (hp : s.phase = .datB) (word : s.op = .wrw → s.idx < s.params.wcap)
    (pixel : s.op = .wpp → s.idx < s.params.pcap) :
    engineTurn s = execXchg
      (match s.op with
       | .wrw => lo (readTXW s s.idx.toNat)
       | .rdw => 0#8
       | .wpp => readTXP s s.idx.toNat) s := by
  rw [engineTurn_datB hp]
  cases ho : s.op <;> simp only
  case wrw => exact if_pos (word ho)
  case wpp => exact if_pos (pixel ho)

theorem commandEnds_of_word {s : State} (ho : s.op ≠ .wpp) : commandEnds s = true := by
  simp [commandEnds, ho]

theorem commandEnds_of_pixels {s : State} (ho : s.op = .wpp) : commandEnds s = decide (¬ s.idx < s.cnt) := by
  simp [commandEnds, ho]

end Sys2Proof.Machine

namespace Sys2Proof.Safety

open Sys2Proof.Machine

/-- The first gate inside a frame: RDW has its dummy word next, an element left its first byte, and else the command was
a word write of count 0 (R120, R128). -/
theorem arrow_gate1 {s : State} (h : Inv s) (hp : s.phase = .gate1) :
    arrow s true (if s.op = .rdw then .dmyA else nextData s) := by
  simp only [arrow, hp, nextData, Bool.true_eq_false, if_false]
  by_cases ho : s.op = .rdw
  · simp [ho]
  by_cases left : s.idx < s.cnt
  · simp [ho, left]
  have wrw : s.op = .wrw := by
    cases hop : s.op
    case wrw => rfl
    case rdw => exact absurd hop ho
    case wpp => exact absurd (h.pair_left hop (by simp [hp]) (by simp [hp])) left
  have start : s.idx = 0#32 := h.index_starts_at_zero (by simp [wrw]) (by simp [hp, beforeData])
  have empty : s.cnt = 0#32 := by bv_omega
  simp [wrw, start, empty]

/-- The gate after the dummy word stands before the first element of a read (R123, R128). -/
theorem arrow_gate2 {s : State} (h : Inv s) (hp : s.phase = .gate2) : arrow s true (nextData s) := by
  have ho : s.op = .rdw := h.dummy_is_read (.inr (.inr hp))
  have start : s.idx = 0#32 := h.index_starts_at_zero (by simp [ho]) (by simp [hp, beforeData])
  simp only [arrow, hp, nextData, Bool.true_eq_false, if_false]
  by_cases left : s.idx < s.cnt
  · rw [if_pos left, if_pos left]
    exact ⟨start, rfl⟩
  · have empty : s.cnt = 0#32 := by bv_omega
    simp [start, empty]

/-- A sample that reads 0 keeps a gate, and one that reads 1 leads along its arrow (R116, R120, R123). -/
theorem execWaitrdy_arrow {s t : State} (h : Inv s) (he : execWaitrdy s = .next t) : arrow s (rdyLevel s) t.phase := by
  obtain ⟨p, exit, rfl⟩ := execWaitrdy_next he
  cases hp : s.phase <;> simp only [gateExit, hp, Option.some.injEq, reduceCtorEq] at exit <;> subst exit
  case gate0 => cases rdyLevel s <;> simp [arrow, hp]
  case gate1 =>
    cases rdyLevel s
    · simp [arrow, hp]
    · exact arrow_gate1 h hp
  case gate2 =>
    cases rdyLevel s
    · simp [arrow, hp]
    · exact arrow_gate2 h hp

/-- An exchange takes the one arrow of its phase, whatever is said of a sample (R118 to R125). -/
theorem execXchg_arrow {out : Byte} {s t : State} (r : Bool) (he : execXchg out s = .next t) : arrow s r t.phase := by
  rcases execXchg_next he with ⟨hp, rfl⟩ | ⟨hp, rfl⟩ | ⟨hp, rfl⟩ | ⟨hp, rfl⟩ | ⟨hp, rfl⟩ | ⟨hp, -, rfl⟩
  case inr.inr.inr.inr.inr => simp only [arrow, hp]; exact afterElement_eq s
  all_goals simp [arrow, hp, dataFirst]

theorem engineTurn_arrow {s t : State} (h : Inv s) (hs : s.phase ≠ .idle) (he : engineTurn s = .next t) :
    arrow s (rdyLevel s) t.phase := by
  rcases engineTurn_next he with ⟨hp, -⟩ | ⟨-, he⟩ | ⟨-, he⟩ | ⟨-, he⟩ | ⟨-, out, he⟩
  · exact absurd hp hs
  · exact execWaitrdy_arrow h he
  · obtain ⟨hp, rfl⟩ := execCslow_next he
    simp [arrow, hp]
  · obtain ⟨hp, rfl⟩ := execCshigh_next he
    by_cases more : s.op = .wpp ∧ s.idx < s.cnt <;> simp [arrow, hp, commandEnds, more]
  · exact execXchg_arrow _ he

/-- The sample a step takes is the level the device presents (R91). -/
theorem engineTurn_poll {s t : State} {l : Bool} (hs : s.phase ≠ .idle) (he : engineTurn s = .next t)
    (hw : t.wire = s.wire ++ [.poll l]) : t.wire = s.wire ++ [.poll (rdyLevel s)] := by
  rcases engineTurn_event hs he with ⟨polled, -⟩ | ⟨other, -⟩ | ⟨other, -⟩ | ⟨out, b, other, -⟩
  · exact polled
  all_goals simp [hw] at other

end Sys2Proof.Safety

open Sys2Proof Sys2Proof.Machine Sys2Proof.Safety

/-- Settles O12: at rest the engine answers the state it is in, and nothing is waited for. -/
theorem idleEngineTakesNoStep : Obligations.IdleEngineTakesNoStep := by
  intro s hp
  refine ⟨fun hts => ?_, fun ts hts => ?_, fun ts hts => ?_⟩
  · rw [step_of_no_turn hts, engineTurn_idle hp]
  · rw [step_of_engine hts]
    exact engineTurn_idle hp
  · rw [step_of_wait hts, if_neg (by simp [busy, hp])]

/-- Settles O35: the equation of CSLOW in `SEL`, its guard elsewhere, and the level the invariants give. -/
theorem cslowAssertsChipSelect : Obligations.CslowAssertsChipSelect := by
  refine ⟨decodeUop10_low, fun s hp => ⟨engineTurn_sel hp, execCslow_of_sel hp⟩, fun s h hp => ?_,
    fun s t hp he => hp (execCslow_next he).1⟩
  simpa [hp, inFrame] using h.csn_of_running (by simp [hp])

/-- Settles O36: the equation of CSHIGH in `DESEL` by the operation; a command that ends is done, and then the
invariants give `IDX = CNT`. -/
theorem cshighDeassertsChipSelect : Obligations.CshighDeassertsChipSelect := by
  refine ⟨decodeUop10_high, fun s t hp he => hp (execCshigh_next he).1, fun s t h hp he => ⟨?low, fun rest => ?moved⟩,
    fun s hp => ⟨engineTurn_desel hp, fun ho => ?wrw, fun ho => ?rdw, fun ho left => ?more, fun ho moved => ?last⟩⟩
  case low => exact h.low_in_frame (by simp [hp, inFrame])
  case moved =>
    have done : t.done = true := by
      rw [engineTurn_desel hp] at he
      obtain ⟨-, rfl⟩ := execCshigh_next he
      cases ends : commandEnds s
      · simp [ends] at rest
      · simp
    obtain ⟨-, -, moved⟩ := (engineTurn_keeps_inv h he).done_means done
    exact moved
  case wrw => exact (execCshigh_of_desel hp).trans (by simp [commandEnds_of_word, ho])
  case rdw => exact (execCshigh_of_desel hp).trans (by simp [commandEnds_of_word, ho])
  case more => exact (execCshigh_of_desel hp).trans (by simp [commandEnds_of_pixels, ho, left])
  case last => exact (execCshigh_of_desel hp).trans (by simp [commandEnds_of_pixels, ho, moved])

/-- Settles O38: each of the four steps is an exchange of the byte that the sequencer formed. -/
theorem preambleAndDummySteps : Obligations.PreambleAndDummySteps := by
  intro s
  have device (out : Byte) := deviceByte_exchanged out s
  obtain ⟨preHi, -, -, -⟩ := execXchg_of_plain (s := s) (hi s.pre)
  obtain ⟨-, preLo, -, -⟩ := execXchg_of_plain (s := s) (lo s.pre)
  obtain ⟨-, -, dmyA, dmyB⟩ := execXchg_of_plain (s := s) 0#8
  refine ⟨fun h ho hp => (h.pixel_command ho ?_).1, fun h hp => h.dummy_is_read (hp.imp_right .inl), fun hp => ?_,
    fun hp => ?_, fun hp => ?_, fun hp => ?_⟩
  · rcases hp with hp | hp <;> simp [hp]
  · exact ⟨_, _, _, device _, (engineTurn_preHi hp).trans (preHi hp)⟩
  · exact ⟨_, _, _, device _, (engineTurn_preLo hp).trans (preLo hp)⟩
  · exact ⟨_, _, _, device _, (engineTurn_dummy (.inl hp)).trans (dmyA hp)⟩
  · exact ⟨_, _, _, device _, (engineTurn_dummy (.inr hp)).trans (dmyB hp)⟩

/-- Settles O39: the step exchanges the first byte of its element, and XCHG in `DAT_A` does the rest. -/
theorem firstDataByteStep : Obligations.FirstDataByteStep := by
  intro s hp word pair
  obtain ⟨b, bs, n, device, he⟩ := (xchgExchangesOneByte s _).2.1 hp
  exact ⟨b, bs, n, device, (engineTurn_datA_of_cell hp word pair).trans he⟩

/-- Settles O40: the step exchanges the second byte of its element, and XCHG in `DAT_B` does the rest. -/
theorem secondDataByteStep : Obligations.SecondDataByteStep := by
  intro s hp word room pixel
  obtain ⟨b, bs, n, m, device, he, unstored, stored⟩ := (xchgExchangesOneByte s _).2.2 hp room
  rw [add_ite] at he
  rw [← joinBytes_eq_append] at stored
  exact ⟨b, bs, n, m, device, (engineTurn_datB_of_cell hp word pixel).trans he, unstored, stored⟩

/-- Settles O51: the engine takes the arrow of the level it sampled; an issue is accepted into the first gate, unless it
has no frame to send, or refused; and no other event of the host but reset moves `PHASE`. -/
theorem phaseMovesOnlyAlongTheTable : Obligations.PhaseMovesOnlyAlongTheTable := by
  refine ⟨fun s t h hs he => ⟨rdyLevel s, fun ⟨_, hw⟩ => engineTurn_poll hs he hw, engineTurn_arrow h hs he⟩,
    fun s t d he => ?_, fun s t e he => hostTurn_phase he⟩
  obtain ⟨hp, ⟨hc, rfl⟩ | ⟨hc, rfl⟩⟩ := issueWord_outcome he
  · rw [accept_fields hc]
    by_cases empty : fieldOp d = 3#2 ∧ fieldCnt d = 0#32
    · rw [if_neg fun ⟨_, frame⟩ => frame empty]
      exact if_pos empty
    · rw [if_pos ⟨hc, empty⟩]
      exact if_neg empty
  · rw [if_neg fun ⟨accepted, _⟩ => hc accepted]
    exact hp

end

section
/-! Runs of the engine (R115, R143): several steps of a running engine as one relation, tied to the machine's run under
a `wait` turn, and from it the run of a whole command, from its issue to the host's next turn. -/

namespace Sys2Proof.Machine

/-- `t` is reached from `s` by `k` steps of the engine, which is running before each of them. -/
inductive EngineRun : Nat → State → State → Prop where
  | refl (s : State) : EngineRun 0 s s
  | cons {k : Nat} {s t u : State} (running : s.phase ≠ .idle) (moves : engineTurn s = .next t)
      (rest : EngineRun k t u) : EngineRun (k + 1) s u

namespace EngineRun

variable {k l : Nat} {s t u : State}

theorem one (running : s.phase ≠ .idle) (moves : engineTurn s = .next t) : EngineRun 1 s t :=
  cons running moves (refl t)

theorem trans (h : EngineRun k s t) (h' : EngineRun l t u) : EngineRun (k + l) s u := by
  induction h with
  | refl s => rwa [Nat.zero_add]
  | cons running moves _ ih => rw [Nat.add_right_comm]; exact cons running moves (ih h')

theorem of_eq (h : EngineRun k s t) (hk : k = l) (ht : t = u) : EngineRun l s u := hk ▸ ht ▸ h

/-- The steps of an engine's run are what a `wait` turn lets the machine do (R77, R154), and they leave the turns. -/
theorem run_of_wait {ts : List Turn} (h : EngineRun k s t) (hts : s.turns = .wait :: ts) (l : Nat) :
    Host.Core.run core (k + l) s = Host.Core.run core l t ∧ t.turns = .wait :: ts := by
  induction h with
  | refl s => exact ⟨by rw [Nat.zero_add], hts⟩
  | cons running moves _ ih =>
    have hstep := (step_of_wait hts).trans ((if_pos (decide_eq_true running)).trans moves)
    rw [Nat.add_right_comm, run_of_step hstep]
    exact ih ((engineTurn_frame moves).turns.trans hts)

end EngineRun

/-- A run goes on from where its first part ended. -/
theorem run_add {s t : State} {k : Nat} (h : Host.Core.run core k s = .next t) (l : Nat) :
    Host.Core.run core (k + l) s = Host.Core.run core l t := by
  induction k generalizing s with
  | zero => cases h; rw [Nat.zero_add]
  | succ k ih =>
    rw [Nat.add_right_comm]
    cases hs : step s with
    | next s' => rw [run_of_step hs] at h ⊢; exact ih h
    | fault r => simp [Host.Core.run, core, hs] at h
    | refused r => simp [Host.Core.run, core, hs] at h

/-- A whole command: its issue, the engine's run to rest, and the `wait` that is then spent. -/
theorem run_command {s t u : State} {d : BitVec 64} {i : Instr} {ts : List Turn} {k : Nat}
    (hts : s.turns = .host (.issue d) :: .wait :: ts) (hd : decodeCmd64 d = .ok i)
    (issued : exec i { s with turns := .wait :: ts } = .next t) (waiting : t.turns = .wait :: ts)
    (runs : EngineRun k t u) (rest : u.phase = .idle) :
    Host.Core.run core (1 + k + 1) s = .next { u with turns := ts } := by
  obtain ⟨moved, still⟩ := runs.run_of_wait waiting 1
  have first : step s = .next t := (step_of_host hts).trans ((issueWord_of_decoded hd _).trans issued)
  have last : step u = .next { u with turns := ts } := (step_of_wait still).trans (if_neg (by simp [busy, rest]))
  rw [Nat.add_assoc, Nat.add_comm, run_of_step first, moved]
  exact run_of_step last 0

end Sys2Proof.Machine
end

section
/-! The parts of a frame as runs of the engine (R116 to R126, R80 to R82): a gate, the preamble, the dummy word, the
opening of a frame, one element, and the elements of a word command. -/

namespace Sys2Proof.Machine

open Sys2Proof.Safety

variable {s : State} {p : Phase} {a b out : Byte} {bs : List Byte} {ls : List Bool}

/-- The exchange with a device that has a byte in its script (R100), and the two of the data phase (R124, R125). -/
theorem exchanged_of_script (out : Byte) (hb : s.bytes = b :: bs) :
    exchanged out s = { s with bytes := bs, wire := s.wire ++ [.xchg out b] } := by
  simp [exchanged, sdiByte, hb]

theorem dataFirst_of_script (out : Byte) (hb : s.bytes = b :: bs) :
    dataFirst out s = { s with
      bytes := bs
      wire := s.wire ++ [.xchg out b]
      rxh := if s.op = .rdw then b else s.rxh
      phase := .datB } := by
  simp [dataFirst, exchanged, sdiByte, hb]

theorem dataSecond_of_script (out : Byte) (hb : s.bytes = b :: bs) :
    dataSecond out s = { s with
      bytes := bs
      wire := s.wire ++ [.xchg out b]
      rxw := if s.op = .rdw then writeCell s.rxw s.idx.toNat (joinBytes s.rxh b) else s.rxw
      idx := s.idx + elementSize s.op
      phase := afterElement s } := by
  simp [dataSecond, exchanged, sdiByte, hb]

theorem running_of_exchange {t : State} (hx : execXchg out s = .next t) : s.phase ≠ .idle := by
  intro hp
  simp only [execXchg, hp, reduceCtorEq] at hx

/-- A step that sends the byte `out` and keeps nothing of what it receives. -/
theorem exchange_runs (he : engineTurn s = execXchg out s)
    (hx : execXchg out s = .next { exchanged out s with phase := p }) (hb : s.bytes = b :: bs) :
    EngineRun 1 s { s with bytes := bs, wire := s.wire ++ [.xchg out b], phase := p } := by
  refine (EngineRun.one (running_of_exchange hx) (he.trans hx)).of_eq rfl ?_
  rw [exchanged_of_script out hb]

/-- A gate whose device reads 0 `z` times and then 1 takes `z + 1` steps (R93, R116, R120, R123). -/
theorem gate_runs {z : Nat} (hg : s.phase = .gate0 ∨ s.phase = .gate1 ∨ s.phase = .gate2)
    (exit : gateExit s = some p) (hl : s.levels = gateLevels z ++ ls) :
    EngineRun (z + 1) s { s with levels := ls, wire := s.wire ++ gateEvents z, phase := p } := by
  have running : s.phase ≠ .idle := by rcases hg with hg | hg | hg <;> simp [hg]
  induction z generalizing s with
  | zero =>
    refine .one running ((engineTurn_gate hg).trans ((execWaitrdy_of_exit exit).trans ?_))
    have ready : s.levels = true :: ls := hl
    simp [sampled, rdyLevel, ready, gateEvents, gateLevels]
  | succ z ih =>
    have unready : s.levels = false :: (gateLevels z ++ ls) := hl
    refine (EngineRun.cons running ((engineTurn_gate hg).trans (execWaitrdy_of_unready hg unready))
      (ih hg exit rfl running)).of_eq rfl ?_
    simp [gateEvents, gateLevels, List.replicate_succ]

theorem select_runs (hp : s.phase = .sel) :
    EngineRun 1 s { s with csn := .low, phase := .preHi, wire := s.wire ++ [.csLow] } :=
  .one (by simp [hp]) ((engineTurn_sel hp).trans (execCslow_of_sel hp))

/-- The preamble, its high byte first (R118, R119). -/
theorem preamble_runs (hp : s.phase = .preHi) (hb : s.bytes = a :: b :: bs) :
    EngineRun 2 s
      { s with bytes := bs, wire := s.wire ++ exchanges [hi s.pre, lo s.pre] [a, b], phase := .gate1 } := by
  have high := exchange_runs (engineTurn_preHi hp) (execXchg_before_data _ (.inl hp)) hb
  rw [if_pos hp] at high
  exact (high.trans (exchange_runs (engineTurn_preLo rfl) (execXchg_before_data _ (.inr (.inl rfl))) rfl)).of_eq rfl
    (by simp [exchanges])

/-- The dummy word of a read is zero (R121, R122). -/
theorem dummy_runs (hp : s.phase = .dmyA) (hb : s.bytes = a :: b :: bs) :
    EngineRun 2 s
      { s with bytes := bs, wire := s.wire ++ exchanges [0#8, 0#8] [a, b], phase := .gate2 } := by
  have first := exchange_runs (p := .dmyB) (engineTurn_dummy (.inl hp))
    (by simpa [hp] using execXchg_before_data 0#8 (.inr (.inr (.inl hp)))) hb
  exact (first.trans (exchange_runs (engineTurn_dummy (.inr rfl))
    (execXchg_before_data _ (.inr (.inr (.inr rfl)))) rfl)).of_eq rfl (by simp [exchanges])

/-- The opening of every frame: a gate, the chip-select, the preamble and a second gate (R80 to R82). -/
theorem frame_opens {z0 z1 : Nat} (hp : s.phase = .gate0) (hl : s.levels = gateLevels z0 ++ gateLevels z1 ++ ls)
    (hb : s.bytes = a :: b :: bs) :
    EngineRun (5 + (z0 + z1)) s { s with
      csn := .low
      levels := ls
      bytes := bs
      wire := s.wire ++ (gateEvents z0 ++ [.csLow] ++ exchanges [hi s.pre, lo s.pre] [a, b] ++ gateEvents z1)
      phase := if s.op = .rdw then .dmyA else nextData s } := by
  rw [List.append_assoc] at hl
  have exit : gateExit s = some .sel := by simp only [gateExit, hp]
  have selects := (gate_runs (.inl hp) exit hl).trans (select_runs rfl)
  have asks := selects.trans (preamble_runs rfl hb)
  exact (asks.trans (gate_runs (.inr (.inl rfl)) rfl rfl)).of_eq (by omega) (by simp [nextData])

/-- The two bytes of element `i` in the order they are sent: a word's high byte first, two zeros, or the second pixel of
a pair first (R124, R125). -/
def elementBytes (s : State) (i : Nat) : List Byte :=
  match s.op with
  | .wrw => [hi (readTXW s i), lo (readTXW s i)]
  | .rdw => [0#8, 0#8]
  | .wpp => [readTXP s (i + 1), readTXP s i]

/-- `DAT_A` sends its byte, and a read keeps the one it receives in `RXH` (R124). -/
theorem first_byte_runs (hp : s.phase = .datA) (he : engineTurn s = execXchg out s) (hb : s.bytes = b :: bs) :
    EngineRun 1 s { s with
      bytes := bs
      wire := s.wire ++ [.xchg out b]
      rxh := if s.op = .rdw then b else s.rxh
      phase := .datB } := by
  rw [← dataFirst_of_script out hb]
  exact .one (by simp [hp]) (he.trans (execXchg_of_datA hp out))

/-- `DAT_B` sends its byte, and a read stores the word it has then received (R125). -/
theorem second_byte_runs (hp : s.phase = .datB) (room : s.op = .rdw → s.idx < s.params.rcap)
    (he : engineTurn s = execXchg out s) (hb : s.bytes = b :: bs) :
    EngineRun 1 s { s with
      bytes := bs
      wire := s.wire ++ [.xchg out b]
      rxw := if s.op = .rdw then writeCell s.rxw s.idx.toNat (joinBytes s.rxh b) else s.rxw
      idx := s.idx + elementSize s.op
      phase := afterElement s } := by
  rw [← dataSecond_of_script out hb]
  have storable : ¬ (s.op = .rdw ∧ s.params.rcap ≤ s.idx) := fun ⟨ho, full⟩ => BitVec.not_lt.mpr full (room ho)
  exact .one (by simp [hp]) (he.trans (execXchg_of_datB hp storable out))

/-- The element at `IDX` moves in two steps; a read keeps the two bytes it received (R124, R125). -/
theorem element_runs (hp : s.phase = .datA) (word : s.op = .wrw → s.idx < s.params.wcap)
    (room : s.op = .rdw → s.idx < s.params.rcap) (pair : s.op = .wpp → s.idx.toNat + 1 < s.params.pcap.toNat)
    (hb : s.bytes = a :: b :: bs) :
    EngineRun 2 s { s with
      bytes := bs
      wire := s.wire ++ exchanges (elementBytes s s.idx.toNat) [a, b]
      rxh := if s.op = .rdw then a else s.rxh
      rxw := if s.op = .rdw then writeCell s.rxw s.idx.toNat (joinBytes a b) else s.rxw
      idx := s.idx + elementSize s.op
      phase := afterElement s } := by
  have pixel (ho : s.op = .wpp) : s.idx < s.params.pcap := Nat.lt_of_succ_lt (pair ho)
  have next (ho : s.op = .wpp) : (s.idx + 1#32).toNat = s.idx.toNat + 1 := by
    have fits := pair ho
    bv_omega
  have second (ho : s.op = .wpp) : s.idx + 1#32 < s.params.pcap := by
    rw [BitVec.lt_def, next ho]
    exact pair ho
  have first := first_byte_runs hp (engineTurn_datA_of_cell hp word second) hb
  refine (first.trans (second_byte_runs rfl room (engineTurn_datB_of_cell rfl word pixel) rfl)).of_eq rfl ?_
  cases ho : s.op <;> simp [ho, next, elementBytes, exchanges, afterElement, readTXW, readTXP, -BitVec.toNat_add]

/-- The bytes of the `k` elements from element `i` on. -/
def elementsBytes (s : State) (i k : Nat) : List Byte := (List.range' i k).flatMap (elementBytes s)

theorem elementsBytes_succ (s : State) (i k : Nat) :
    elementsBytes s i (k + 1) = elementBytes s i ++ elementsBytes s (i + 1) k := by
  simp [elementsBytes, List.range'_succ]

theorem elementsBytes_of_wrw (ho : s.op = .wrw) (n : Nat) : elementsBytes s 0 n = wordBytes (wordsToSend s n) := by
  have word : elementBytes s = fun i => [hi (readTXW s i), lo (readTXW s i)] := by
    funext i
    rw [elementBytes, ho]
  simp [elementsBytes, word, wordBytes, wordsToSend, List.range_eq_range', List.flatMap_map]

theorem elementsBytes_of_rdw (ho : s.op = .rdw) (i n : Nat) : elementsBytes s i n = List.replicate (2 * n) 0#8 := by
  induction n generalizing i with
  | zero => rfl
  | succ n ih => simp [elementsBytes_succ, elementBytes, ho, ih, Nat.mul_succ, List.replicate_succ]

theorem length_elementBytes (s : State) (i : Nat) : (elementBytes s i).length = 2 := by
  cases ho : s.op <;> simp [elementBytes, ho]

theorem exchanges_elements (s : State) (i k : Nat) (a b : Byte) (ins : List Byte) :
    exchanges (elementsBytes s i (k + 1)) (a :: b :: ins) =
      exchanges (elementBytes s i) [a, b] ++ exchanges (elementsBytes s (i + 1) k) ins := by
  rw [elementsBytes_succ]
  exact List.zipWith_append (l₂ := [a, b]) (length_elementBytes s i)

theorem exists_cons_cons {α : Type} {l : List α} {k : Nat} (h : l.length = k + 2) :
    ∃ a b r, l = a :: b :: r ∧ r.length = k := by
  match l, h with
  | a :: b :: r, h => exact ⟨a, b, r, rfl, by simpa using h⟩

theorem eq_with_phase_idx {i : Count} (hp : s.phase = p) (hidx : s.idx = i) : s = { s with phase := p, idx := i } := by
  subst hp hidx
  rfl

/-- The `k` elements that a word command has left, from one data phase to the end of the frame, with the bytes
`data` to send (R124, R125). -/
theorem words_run {k : Nat} {data ins : List Byte} (ho : s.op ≠ .wpp) (hp : s.phase = nextData s)
    (left : s.idx.toNat + k = s.cnt.toNat) (word : s.op = .wrw → s.cnt ≤ s.params.wcap)
    (room : s.op = .rdw → s.cnt ≤ s.params.rcap) (hb : s.bytes = ins ++ bs) (hlen : ins.length = 2 * k)
    (sent : elementsBytes s s.idx.toNat k = data) :
    EngineRun (2 * k) s { s with
      phase := .desel
      idx := s.cnt
      bytes := bs
      rxh := if s.op = .rdw then lastFirst s.rxh ins else s.rxh
      rxw := if s.op = .rdw then storeWords s.rxw s.idx.toNat (receivedWords ins) else s.rxw
      wire := s.wire ++ exchanges data ins } := by
  subst sent
  induction k generalizing s ins with
  | zero =>
    obtain rfl := List.eq_nil_of_length_eq_zero hlen
    have moved : s.idx = s.cnt := BitVec.eq_of_toNat_eq left
    have desel : s.phase = .desel := by simpa [nextData, moved] using hp
    obtain rfl : s.bytes = bs := hb
    have still : s = { s with phase := .desel, idx := s.cnt } := eq_with_phase_idx desel moved
    refine (EngineRun.refl s).of_eq rfl (still.trans ?_)
    simp [lastFirst, receivedWords, storeWords, elementsBytes, exchanges]
  | succ k ih =>
    obtain ⟨a, b, r, rfl, hr⟩ := exists_cons_cons (k := 2 * k) hlen
    have more : s.idx < s.cnt := by rw [BitVec.lt_def]; omega
    have size : elementSize s.op = 1#32 := by rw [elementSize_eq, if_neg ho]
    have next : (s.idx + elementSize s.op).toNat = s.idx.toNat + 1 := by rw [size]; bv_omega
    have element := element_runs (a := a) (b := b) (bs := r ++ bs) (hp.trans (if_pos more))
      (fun h => Nat.lt_of_lt_of_le more (word h)) (fun h => Nat.lt_of_lt_of_le more (room h)) (absurd · ho) hb
    refine (element.trans (ih ho ?phase (by simp only [next]; omega) word room rfl hr)).of_eq (by omega) ?_
    case phase => simp [afterElement, nextData, ho]
    rw [exchanges_elements, ← List.append_assoc]
    simp only [next]
    by_cases read : s.op = .rdw
    · simp only [if_pos read]
      rfl
    · simp only [if_neg read]
      rfl

/-- The last step of a frame (R126), and what it is for a word command. -/
theorem frame_closes (hp : s.phase = .desel) :
    EngineRun 1 s { s with
      csn := .high
      phase := if commandEnds s then .idle else .gate0
      done := s.done || commandEnds s
      rlen := if s.op = .rdw then s.cnt else s.rlen
      wire := s.wire ++ [.csHigh] } :=
  .one (by simp [hp]) ((engineTurn_desel hp).trans (execCshigh_of_desel hp))

theorem word_frame_closes (ho : s.op ≠ .wpp) (hp : s.phase = .desel) :
    EngineRun 1 s { s with
      csn := .high
      phase := .idle
      done := true
      rlen := if s.op = .rdw then s.cnt else s.rlen
      wire := s.wire ++ [.csHigh] } :=
  (frame_closes hp).of_eq rfl (by simp [commandEnds_of_word ho])

/-- A word write from its first gate to rest (R140). -/
theorem word_write_runs {z0 z1 : Nat} {ins : List Byte} (ho : s.op = .wrw) (hp : s.phase = .gate0)
    (start : s.idx = 0#32) (fits : s.cnt ≤ s.params.wcap) (hl : s.levels = gateLevels z0 ++ gateLevels z1 ++ ls)
    (hb : s.bytes = ins ++ bs) (hlen : ins.length = 2 + 2 * s.cnt.toNat) :
    EngineRun (2 * s.cnt.toNat + 6 + (z0 + z1)) s { s with
      csn := .high
      phase := .idle
      idx := s.cnt
      done := true
      wire := s.wire ++ writeFrame z0 z1 s.pre (wordBytes (wordsToSend s s.cnt.toNat)) ins
      levels := ls
      bytes := bs } := by
  obtain ⟨a, b, data, rfl, hdata⟩ := exists_cons_cons (hlen.trans (Nat.add_comm ..))
  have notPixels : s.op ≠ .wpp := by simp [ho]
  have opens := frame_opens hp hl hb
  have sends := opens.trans (words_run (k := s.cnt.toNat) notPixels (by simp [ho, nextData]) (by simp [start])
    (fun _ => fits) (by simp [ho]) rfl hdata (by simp only [start]; exact elementsBytes_of_wrw ho _))
  refine (sends.trans (word_frame_closes notPixels rfl)).of_eq (by omega) ?_
  simp [ho, writeFrame]

/-- A word read from its first gate to rest (R141). -/
theorem word_read_runs {z0 z1 z2 : Nat} {ins : List Byte} (ho : s.op = .rdw) (hp : s.phase = .gate0)
    (start : s.idx = 0#32) (fits : s.cnt ≤ s.params.rcap)
    (hl : s.levels = gateLevels z0 ++ gateLevels z1 ++ gateLevels z2 ++ ls)
    (hb : s.bytes = ins ++ bs) (hlen : ins.length = 4 + 2 * s.cnt.toNat) :
    EngineRun (2 * s.cnt.toNat + 9 + (z0 + z1 + z2)) s { s with
      csn := .high
      phase := .idle
      idx := s.cnt
      rxh := lastFirst s.rxh (ins.drop 4)
      done := true
      rlen := s.cnt
      rxw := storeWords s.rxw 0 (receivedWords (ins.drop 4))
      wire := s.wire ++ readFrame z0 z1 z2 s.pre s.cnt.toNat ins
      levels := ls
      bytes := bs } := by
  obtain ⟨a, b, ins, rfl, hins⟩ := exists_cons_cons (k := 2 * s.cnt.toNat + 2) (hlen.trans (by omega))
  obtain ⟨c, d, data, rfl, hdata⟩ := exists_cons_cons hins
  have notPixels : s.op ≠ .wpp := by simp [ho]
  rw [List.append_assoc] at hl
  have opens := frame_opens hp hl hb
  rw [if_pos ho] at opens
  have asks := opens.trans ((dummy_runs rfl rfl).trans (gate_runs (.inr (.inr rfl)) rfl rfl))
  have receives := asks.trans (words_run (k := s.cnt.toNat) notPixels rfl (by simp [start])
    (by simp [ho]) (fun _ => fits) rfl hdata (elementsBytes_of_rdw ho _ _))
  refine (receives.trans (word_frame_closes notPixels rfl)).of_eq (by omega) ?_
  simp [ho, start, readFrame]

/-- One frame of a pixel write: one pair, the second pixel first, and the next gate if a pair is left (R142). -/
theorem pixel_frame_runs {z0 z1 : Nat} {ins : List Byte} (ho : s.op = .wpp) (hp : s.phase = .gate0)
    (pair : s.idx.toNat + 2 ≤ s.cnt.toNat) (fits : s.cnt ≤ s.params.pcap)
    (hl : s.levels = gateLevels z0 ++ gateLevels z1 ++ ls) (hb : s.bytes = ins ++ bs) (hlen : ins.length = 4) :
    EngineRun (8 + (z0 + z1)) s { s with
      csn := .high
      phase := if s.cnt ≤ s.idx + 2#32 then .idle else .gate0
      idx := s.idx + 2#32
      done := s.done || decide (s.cnt ≤ s.idx + 2#32)
      wire := s.wire ++ writeFrame z0 z1 s.pre [readTXP s (s.idx.toNat + 1), readTXP s s.idx.toNat] ins
      levels := ls
      bytes := bs } := by
  obtain ⟨a, b, ins, rfl, hins⟩ := exists_cons_cons (k := 2) hlen
  obtain ⟨c, d, _, rfl, hnil⟩ := exists_cons_cons hins
  obtain rfl := List.eq_nil_of_length_eq_zero hnil
  have left : s.idx < s.cnt := by rw [BitVec.lt_def]; omega
  have opens := frame_opens hp hl hb
  have sends := opens.trans (element_runs (by simp [ho, nextData, left]) (by simp [ho]) (by simp [ho])
    (fun _ => Nat.lt_of_lt_of_le pair fits) rfl)
  refine (sends.trans (frame_closes ?_)).of_eq (by omega) ?_
  · simp [ho, afterElement]
  · simp [ho, writeFrame, commandEnds, elementSize, elementBytes, readTXP]

/-- The frames of a pixel write from pair `j` on, at rest if none is left (R142). -/
theorem pixel_frames_run {zs : List (Nat × Nat)} {j : Nat} {ins : List Byte} {px : Nat → Byte}
    (ho : s.op = .wpp) (hpre : s.pre = 0#16) (hp : s.phase = if s.cnt ≤ s.idx then .idle else .gate0)
    (hd : s.done = decide (s.cnt ≤ s.idx))
    (moved : s.idx.toNat = 2 * j) (left : s.cnt.toNat = s.idx.toNat + 2 * zs.length) (fits : s.cnt ≤ s.params.pcap)
    (hl : s.levels = pixelLevels zs ++ ls) (hb : s.bytes = ins ++ bs) (hlen : ins.length = 4 * zs.length)
    (cells : readTXP s = px) :
    EngineRun (8 * zs.length + pixelZeros zs) s { s with
      csn := if zs = [] then s.csn else .high
      phase := .idle
      idx := s.cnt
      done := true
      wire := s.wire ++ pixelFrames px j zs ins
      levels := ls
      bytes := bs } := by
  induction zs generalizing s j ins with
  | nil =>
    obtain rfl := List.eq_nil_of_length_eq_zero hlen
    obtain rfl : s.bytes = bs := hb
    obtain rfl : s.levels = ls := hl
    have all : s.idx = s.cnt := BitVec.eq_of_toNat_eq left.symm
    have atRest : s.phase = .idle := hp.trans (if_pos (by simp [all]))
    have done : s.done = true := hd.trans (by simp [all])
    refine (EngineRun.refl s).of_eq rfl ((eq_with_phase_idx atRest all).trans ?_)
    simp [pixelFrames, done]
  | cons z zs ih =>
    obtain ⟨z0, z1⟩ := z
    rw [List.length_cons] at left hlen
    have more : ¬ s.cnt ≤ s.idx := by rw [BitVec.le_def]; omega
    have next : (s.idx + 2#32).toNat = s.idx.toNat + 2 := by bv_omega
    rw [if_neg more] at hp
    rw [decide_eq_false more] at hd
    have levels : s.levels = gateLevels z0 ++ gateLevels z1 ++ (pixelLevels zs ++ ls) := by
      simp [hl, pixelLevels]
    have bytes : s.bytes = ins.take 4 ++ (ins.drop 4 ++ bs) := by
      rw [← List.append_assoc, List.take_append_drop, hb]
    have frame := pixel_frame_runs ho hp (by omega) fits levels bytes (by simp [hlen])
    refine (frame.trans (ih (j := j + 1) ho hpre rfl (by simp [hd]) (by simp only [next]; omega)
      (by simp only [next]; omega) fits rfl rfl (by simp [hlen]; omega) cells)).of_eq (by simp [pixelZeros]; omega) ?_
    simp [pixelFrames, hpre, moved, cells]

end Sys2Proof.Machine
end

section
/-! The words of a read (R38, R54, R141): the bytes of a word sequence by index, the words of received bytes, and what a
buffer holds after they were stored. -/

namespace Sys2Proof.Machine

open Sys2Proof.Safety

theorem length_wordBytes (ws : List Word) : (wordBytes ws).length = 2 * ws.length := by
  simp [wordBytes, List.length_flatMap, Nat.mul_comm]

/-- Word `i` is on the wire as bytes `2 i` and `2 i + 1`, the high one first (R51). -/
theorem getElem?_wordBytes {ws : List Word} {i : Nat} {w : Word} (h : ws[i]? = some w) :
    (wordBytes ws)[2 * i]? = some (hi w) ∧ (wordBytes ws)[2 * i + 1]? = some (lo w) := by
  induction ws generalizing i with
  | nil => simp at h
  | cons v ws ih =>
    cases i with
    | zero => cases h; exact ⟨rfl, rfl⟩
    | succ i => exact ih h

theorem length_receivedWords {bytes : List Byte} {n : Nat} (h : bytes.length = 2 * n) :
    (receivedWords bytes).length = n := by
  induction n generalizing bytes with
  | zero => obtain rfl := List.eq_nil_of_length_eq_zero h; rfl
  | succ n ih =>
    obtain ⟨a, b, r, rfl, hr⟩ := exists_cons_cons (k := 2 * n) h
    exact congrArg (· + 1) (ih hr)

/-- Two received bytes are one word, the first its high byte (R54). -/
theorem getElem?_receivedWords {bytes : List Byte} {i : Nat} {a b : Byte} (ha : bytes[2 * i]? = some a)
    (hb : bytes[2 * i + 1]? = some b) : (receivedWords bytes)[i]? = some (joinBytes a b) := by
  induction i generalizing bytes with
  | zero =>
    match bytes, ha, hb with
    | _ :: _ :: _, ha, hb => cases ha; cases hb; rfl
  | succ i ih =>
    match bytes, ha, hb with
    | _ :: _ :: _, ha, hb => exact ih ha hb

/-- The cells before the first one stored to and after the last one are as they were. -/
theorem readCell_storeWords_outside (m : Memory 16) (f : Nat → Word) {i j : Nat} {ws : List Word}
    (h : j < i ∨ i + ws.length ≤ j) : readCell (storeWords m i ws) f j = readCell m f j := by
  induction ws generalizing m i with
  | nil => rfl
  | cons w ws ih =>
    rw [List.length_cons] at h
    exact (ih _ (by omega)).trans (readCell_writeCell_other m f (by omega) w)

/-- The words are in the cells in their order. -/
theorem readCell_storeWords (m : Memory 16) (f : Nat → Word) {i j : Nat} {ws : List Word} {w : Word}
    (h : ws[j]? = some w) : readCell (storeWords m i ws) f (i + j) = w := by
  induction ws generalizing m i j with
  | nil => simp at h
  | cons v ws ih =>
    cases j with
    | zero =>
      cases h
      exact (readCell_storeWords_outside _ f (.inl (Nat.lt_succ_self i))).trans (readCell_writeCell_same m f i _)
    | succ j =>
      rw [Nat.add_comm j 1, ← Nat.add_assoc]
      exact ih _ h

end Sys2Proof.Machine
end

section
/-! The whole commands (R140 to R143, R146), each its issue and the run of its frames. -/

open Sys2Proof Sys2Proof.Machine Sys2Proof.Safety

/-- Settles O57: the acceptance enters the first gate, and the frame's run leads to rest. -/
theorem wordWriteSendsItsFrame : Obligations.WordWriteSendsItsFrame := by
  intro s pre z0 z1 ins bs ls ts hp hl fits hts hlevels hbytes hlen
  have issued := wrwIsAccepted { s with turns := .wait :: ts } pre s.wlen hp hl rfl
  refine (run_command hts (decode_encode (.wrw pre s.wlen)) issued rfl
    (word_write_runs rfl rfl rfl fits hlevels hbytes hlen) rfl).trans ?_
  rw [← hp]
  rfl

/-- Settles O58: likewise; the received words are in the cells they were stored to. -/
theorem wordReadStoresWhatItReceives : Obligations.WordReadStoresWhatItReceives := by
  intro s pre n z0 z1 z2 ins bs ls ts hp hl fits hts hlevels hbytes hlen
  have issued := rdwIsAccepted { s with turns := .wait :: ts } pre n hp hl fits
  have runs := run_command hts (decode_encode (.rdw pre n)) issued rfl
    (word_read_runs rfl rfl rfl fits hlevels hbytes hlen) rfl
  rw [← hp] at runs
  refine ⟨_, runs, rfl, fun i _ a b ha hb => ?_, fun i beyond => ?_⟩
  · have word := getElem?_receivedWords (bytes := ins.drop 4) (i := i) (a := a) (b := b)
      (by rwa [List.getElem?_drop]) (by rwa [List.getElem?_drop, ← Nat.add_assoc, Nat.add_right_comm])
    rw [← Nat.zero_add i]
    exact readCell_storeWords _ _ word
  · have count := length_receivedWords (bytes := ins.drop 4) (n := n.toNat) (by simp [hlen])
    exact readCell_storeWords_outside _ _ (.inr (by rwa [count, Nat.zero_add]))

/-- Settles O59: the acceptance enters the first gate if there is a pair, and the frames' run leads to rest. -/
theorem pixelWriteSendsOneFrameAPair : Obligations.PixelWriteSendsOneFrameAPair := by
  intro s zs ins bs ls ts hp hl fits pairs hts hlevels hbytes hlen
  have even : s.plen.getLsbD 0 = false := bit_zero_clear_iff.mpr (by omega)
  have issued := issue_of_accepted (s := { s with turns := .wait :: ts }) hp (issueError_wpp hl even rfl) 0#16
  have empty : (Op.wpp = .wpp ∧ s.plen = 0#32) ↔ s.plen ≤ 0#32 := by simp
  have frames := pixel_frames_run (s := accept .wpp 0#16 s.plen { s with turns := .wait :: ts }) (j := 0) rfl rfl
    (if_congr empty rfl rfl) (decide_eq_decide.mpr empty) rfl (by simp [pairs]) fits hlevels hbytes hlen rfl
  have runs := run_command hts (decode_encode (.wpp s.plen)) issued rfl
    (frames.of_eq (l := 4 * s.plen.toNat + pixelZeros zs) (by omega) rfl) rfl
  have select : (if zs = [] then s.csn else .high) = if s.plen = 0#32 then s.csn else .high :=
    if_congr (by rw [← List.length_eq_zero_iff, ← BitVec.toNat_inj, BitVec.toNat_ofNat]; omega) rfl rfl
  rw [← hp] at runs
  rw [← select]
  exact runs

/-- Settles O60: the write leaves the engine at rest with the read's turns, levels and bytes, and the read stores the
words whose bytes the write sent. -/
theorem writtenWordsReadBack : Obligations.WrittenWordsReadBack := by
  intro s pre pre' z0 z1 z2 z3 z4 ins ins' bs ls ts hp hl writes reads hts hlevels hbytes hlen hlen'
  obtain ⟨k, u, written, phase, life, room, turns, levels, bytes⟩ :
      ∃ k u, Host.Core.run core k s = .next u ∧ u.phase = .idle ∧ u.life = .up ∧ s.wlen ≤ u.params.rcap ∧
        u.turns = .host (.issue (rdwDescriptor pre' s.wlen)) :: .wait :: ts ∧
        u.levels = gateLevels z2 ++ gateLevels z3 ++ gateLevels z4 ++ ls ∧
        u.bytes = ins' ++ wordBytes (wordsToSend s s.wlen.toNat) ++ bs :=
    ⟨_, _, wordWriteSendsItsFrame s pre z0 z1 ins _ _ _ hp hl writes hts hlevels hbytes hlen, hp, hl, reads, rfl, rfl,
      rfl⟩
  have length : (ins' ++ wordBytes (wordsToSend s s.wlen.toNat)).length = 4 + 2 * s.wlen.toNat := by
    simp [hlen', length_wordBytes, wordsToSend]
  obtain ⟨t, hrun, final, stored, -⟩ :=
    wordReadStoresWhatItReceives u pre' s.wlen z2 z3 z4 _ bs ls ts phase life room turns levels bytes length
  refine ⟨_, t, (run_add written _).trans hrun, by rw [final, phase], by rw [final], by rw [final], by rw [final],
    fun i within => ?_⟩
  have word : (wordsToSend s s.wlen.toNat)[i]? = some (readTXW s i) := by simp [wordsToSend, within]
  obtain ⟨high, low⟩ := getElem?_wordBytes word
  have inData (j : Nat) : (ins' ++ wordBytes (wordsToSend s s.wlen.toNat))[4 + j]? =
      (wordBytes (wordsToSend s s.wlen.toNat))[j]? := by
    rw [List.getElem?_append_right (by omega), hlen', Nat.add_sub_cancel_left]
  have readBack := stored i within _ _ ((inData _).trans high) (by
    rw [← low, ← inData, ← Nat.add_assoc, Nat.add_right_comm])
  exact readBack.trans (joinBytes_hi_lo _)

end

section
/-! The host's events under their guards (R152), and with them the lifecycle (R150, R151): each event is a guarded effect,
and without its guard it is no move. -/

namespace Sys2Proof.Machine

open Sys2Proof.Safety

theorem guarded_answers_or_refuses {g : Prop} {_ : Decidable g} (s : State) :
    (g → ∃ t, guarded g s = .next t) ∧ (¬ g → guarded g s = .refused .notAHostMove) :=
  ⟨fun h => ⟨s, if_pos h⟩, fun h => if_neg h⟩

/-- Each event answers a next state under its guard of R152, and is refused without it. -/
theorem hostTurn_answers_or_refuses (e : HostEvent) (s : State) :
    (hostGuard e s → ∃ t, hostTurn e s = .next t) ∧
    (¬ hostGuard e s → hostTurn e s = .refused .notAHostMove) := by
  cases e
  case issue d => exact ⟨fun hp => ⟨_, issueWord_of_idle hp⟩, fun hp => (issueWord_eq d s).trans (if_neg hp)⟩
  case readSTATUS => exact ⟨fun _ => ⟨_, rfl⟩, fun h => absurd trivial h⟩
  case reset => exact ⟨fun _ => ⟨_, rfl⟩, fun h => absurd trivial h⟩
  all_goals exact guarded_answers_or_refuses _

theorem hostTurn_ne_next_of_not_hostGuard {e : HostEvent} {s : State} (h : ¬ hostGuard e s) (t : State) :
    hostTurn e s ≠ .next t := by
  rw [(hostTurn_answers_or_refuses e s).2 h]
  exact nofun

theorem hostTurn_bringup_of_down {s : State} (hl : s.life = .down) (ok : Bool) :
    hostTurn (.bringup ok) s = .next { broughtUp ok s with replies := s.replies ++ [.outcome ok] } := if_pos hl

theorem hostTurn_teardown_of_rest {s : State} (h : s.life = .up ∧ s.phase = .idle) :
    hostTurn .teardown s = .next { s with life := .closed, csn := .z } := if_pos h

/-- Unless the bus is up every issue at rest is refused NOT_UP, whatever its descriptor (R113, R163). -/
theorem hostTurn_issue_of_not_up {s : State} (hp : s.phase = .idle) (hl : s.life ≠ .up) (d : BitVec 64) :
    hostTurn (.issue d) s = .next { s with err := .notUp, done := false } := by
  have cause : issueCause d s = .notUp := if_pos hl
  refine (issueWord_of_idle hp).trans ?_
  rw [cause, if_neg nofun, reject]

theorem replied_inj {q r : Reply} {s : State} : replied q s = replied r s ↔ q = r := by
  simp [replied]

/-- A state with the replies of `s` is not `s` with one reply more. -/
theorem replied_ne {r : Reply} {s t : State} (h : t.replies = s.replies) : replied r s ≠ t := fun e => by
  have replies : s.replies ++ [r] = s.replies := (congrArg State.replies e).trans h
  simp at replies

/-- A read gives the same value in any state with the same guard and the same value to read. -/
theorem guarded_replied_in {g : Prop} [Decidable g] {q r : Reply} {s : State}
    (h : guarded g (replied q s) = .next (replied r s)) (t : State) :
    guarded g (replied q t) = .next (replied r t) := by
  obtain ⟨hg, same⟩ := guarded_next h
  rw [replied_inj.mp same]
  exact if_pos hg

/-- Once the bus has come up, an event that only gives the host a value back is a read; and no read but that of `STATUS`
depends on `LIFE` or on chip-select. -/
theorem hostTurn_read_in {e : HostEvent} {r : Reply} {s : State} (hl : s.life ≠ .down) (he : e ≠ .readSTATUS)
    (h : hostTurn e s = .next (replied r s)) (l : Life) (c : Pin) :
    hostTurn e { s with life := l, csn := c } = .next (replied r { s with life := l, csn := c }) := by
  cases e
  case issue d =>
    obtain ⟨-, ⟨-, same⟩ | ⟨-, same⟩⟩ := issueWord_outcome h <;> exact absurd same (replied_ne rfl)
  case writeTXW | writeTXP | writeWLEN | writePLEN => exact absurd (guarded_next h).2 (replied_ne rfl)
  case readSTATUS => exact absurd rfl he
  case bringup ok => exact absurd h (hostTurn_ne_next_of_not_hostGuard (e := .bringup ok) hl _)
  case teardown => exact absurd (guarded_next (g := s.life = .up ∧ s.phase = .idle) h).2 (replied_ne rfl)
  case reset => exact absurd (Host.Outcome.next.inj h).symm (replied_ne rfl)
  all_goals exact guarded_replied_in h _

end Sys2Proof.Machine

open Sys2Proof Sys2Proof.Machine Sys2Proof.Safety

/-- Settles O20: the guard that the model puts on each event is the one of R152. -/
theorem hostEventsHappenExactlyUnderTheirGuards : Obligations.HostEventsHappenExactlyUnderTheirGuards :=
  hostTurn_answers_or_refuses

/-- Settles O16: from `DOWN` each outcome is what `broughtUp` says; elsewhere the guard of BRINGUP fails. -/
theorem bringupFollowsItsRule : Obligations.BringupFollowsItsRule := by
  intro s ok
  split
  case isTrue hl => cases ok <;> exact hostTurn_bringup_of_down hl _
  case isFalse hl => exact hostTurn_ne_next_of_not_hostGuard hl

/-- Settles O18: after TEARDOWN the guards of BRINGUP and TEARDOWN fail and the bus is not up; only a reset gives `LIFE`
another value than `CLOSED`. -/
theorem teardownClosesTheBus : Obligations.TeardownClosesTheBus := by
  refine ⟨fun s => ?_, fun s t closed hstep left => ?_⟩
  · split
    case isTrue h =>
      obtain ⟨up, rest⟩ := h
      have hl : s.life ≠ .down := by simp [up]
      exact ⟨_, hostTurn_teardown_of_rest ⟨up, rest⟩, rfl, hostTurn_issue_of_not_up rest nofun,
        fun _ => hostTurn_ne_next_of_not_hostGuard nofun, hostTurn_ne_next_of_not_hostGuard nofun,
        fun _ _ he read => hostTurn_read_in hl he read _ _, rfl⟩
    case isFalse h => exact hostTurn_ne_next_of_not_hostGuard h
  · rcases lifeChangesOnlyByItsThreeEvents s t hstep with same | ⟨down, -⟩ | ⟨up, -⟩ | ⟨-, reset⟩
    · exact absurd (same.trans closed) left
    · cases closed.symm.trans down
    · cases closed.symm.trans up
    · exact reset

end

section
/-! How an issue ends (R154): the codes of the causes that can refuse one (R161). -/

namespace Sys2Proof.Machine

open Sys2Proof.Safety

/-- Of all codes 1 to 6 only that of a failed bring-up is not the code of a refused command (R161). -/
theorem errCode_of_refusal {e : Err} (h : e ≠ .none) (hb : e ≠ .bringupFail) :
    1#3 ≤ errCode e ∧ errCode e ≤ 5#3 := by
  cases e
  case none => exact absurd rfl h
  case bringupFail => exact absurd rfl hb
  all_goals decide

theorem issueCause_ne_bringupFail (d : BitVec 64) (s : State) : issueCause d s ≠ .bringupFail := by
  rw [issueCause_fields]
  repeat' split
  all_goals exact nofun

end Sys2Proof.Machine

open Sys2Proof Sys2Proof.Machine Sys2Proof.Safety

/-- Settles O33: an accepted command runs, or is a pixel command of count 0 and complete; a refused one has its cause. -/
theorem issueEndsRunningDoneOrRefused : Obligations.IssueEndsRunningDoneOrRefused := by
  intro s t d he
  obtain ⟨hp, ⟨-, rfl⟩ | ⟨refused, rfl⟩⟩ := issueWord_outcome he
  · by_cases empty : opOfCode (fieldOp d) = .wpp ∧ fieldCnt d = 0#32
    · exact .inr (.inl ⟨if_pos empty, decide_eq_true empty, rfl⟩)
    · exact .inl ⟨if_neg empty, decide_eq_false empty, rfl⟩
  · exact .inr (.inr ⟨hp, rfl, errCode_of_refusal refused (issueCause_ne_bringupFail d s)⟩)

end

section
/-! The rejection of a command (R162, R165, R167): what it changes, and that nothing issued after it sees the change. -/

namespace Sys2Proof.Machine

open Sys2Proof.Safety

/-- Of the two answers to an issue only the rejection leaves an error (R113, R162). -/
theorem issueWord_rejected {d : BitVec 64} {s t : State} (he : issueWord d s = .next t) (error : t.err ≠ .none) :
    s.phase = .idle ∧ t = reject (issueCause d s) s := by
  obtain ⟨rest, ⟨-, rfl⟩ | ⟨-, rejected⟩⟩ := issueWord_outcome he
  · exact absurd rfl error
  · exact ⟨rest, rejected⟩

/-- No check of R113 reads `ERR` or `DONE`. -/
theorem issueCause_reject (d : BitVec 64) (e : Err) (s : State) : issueCause d (reject e s) = issueCause d s := rfl

/-- An acceptance writes both fields that a rejection before it wrote. -/
theorem accept_reject (op : Op) (pre : Word) (cnt : Count) (e : Err) (s : State) :
    accept op pre cnt (reject e s) = accept op pre cnt s := rfl

theorem reject_reject (e' e : Err) (s : State) : reject e' (reject e s) = reject e' s := rfl

/-- R165: an issue after a rejection does what it does without it, at rest and while a command runs. -/
theorem issueWord_reject (d : BitVec 64) (e : Err) (s : State) : issueWord d (reject e s) = issueWord d s := by
  rw [issueWord_eq, reject_phase, issueCause_reject, accept_reject, reject_reject, ← issueWord_eq]

/-- A BRINGUP that failed was possible, so the bus was down, and it recorded `ERR` and the host's answer (R150). -/
theorem hostTurn_failed_bringup {s t : State} (he : hostTurn (.bringup false) s = .next t) :
    s.life = .down ∧ t = { s with err := .bringupFail, replies := s.replies ++ [.outcome false] } :=
  guarded_next (g := s.life = .down) he

end Sys2Proof.Machine

open Sys2Proof Sys2Proof.Machine Sys2Proof.Safety

/-- Settles O17: while the bus is down the engine is at rest and chip-select is not driven (R42), so the next issue is
refused for the bus. -/
theorem commandsAfterFailedBringupAreRefused : Obligations.CommandsAfterFailedBringupAreRefused := by
  intro s t d inv he
  obtain ⟨down, rfl⟩ := hostTurn_failed_bringup he
  have notUp : s.life ≠ .up := by simp [down]
  refine ⟨rfl, down, inv.undriven_unless_up notUp, hostTurn_issue_of_not_up ?rest ?notUp d⟩
  case rest => exact inv.rest_unless_up notUp
  case notUp => exact notUp

/-- Settles O27: an issue that leaves an error is a rejection, made at rest. -/
theorem rejectionChangesOnlyErrAndDone : Obligations.RejectionChangesOnlyErrAndDone := by
  intro s t d he error
  obtain ⟨rest, rfl⟩ := issueWord_rejected he error
  exact ⟨rfl, rest⟩

/-- Settles O28: the rejected issue wrote only what no check reads and what the next issue writes again. -/
theorem rejectedCommandLeavesNoTrace : Obligations.RejectedCommandLeavesNoTrace := by
  intro s t d d' he error
  obtain ⟨-, rfl⟩ := issueWord_rejected he error
  exact issueWord_reject d' _ s

end

section
/-! The reset event (R180): possible in every state, with the engine at rest after it. -/

namespace Sys2Proof.Machine

theorem hostTurn_reset (s : State) : hostTurn .reset s = .next (resetEvent s) := rfl

/-- After a reset nothing runs until the host acts (R127, R180). -/
theorem engineTurn_resetEvent (s : State) : engineTurn (resetEvent s) = .next (resetEvent s) :=
  engineTurn_idle (resetEvent_phase s)

end Sys2Proof.Machine

open Sys2Proof Sys2Proof.Machine

/-- Settles O15: reset has no guard, `resetEvent` has the value of R41 in each field, and its idle phase is the engine's
rest. -/
theorem resetEventIsPossibleInEveryState : Obligations.ResetEventIsPossibleInEveryState := by
  intro s
  refine ⟨resetEvent s, hostTurn_reset s, resetEvent_life s, resetEvent_phase s, resetEvent_done s, resetEvent_err s,
    resetEvent_wlen s, resetEvent_plen s, resetEvent_rlen s, resetEvent_csn s, ?wire, ?rest⟩
  case wire => exact resetEvent_wire s
  case rest => exact engineTurn_resetEvent s

end
